-- ==== Sys2Proof/Word.lean ====
section
/-! DEFINITION. The widths of the machine: the 32-bit word (R6, 00_scope.md), the 8-bit opcode and the 24-bit
operand of an instruction word (R57, 30_encoding.md). -/

namespace Sys2Proof

/-- R6: every register, every memory cell and every instruction word is one 32-bit word. -/
abbrev Word := BitVec 32

/-- R57: the operation selector of an instruction word. -/
abbrev Opcode := BitVec 8

/-- R57: the operand of an instruction word, 24 bits. -/
abbrev Operand := BitVec 24

end Sys2Proof
end

