-- ==== Sys2Proof/Syntax.lean ====
section
/-! DEFINITION. The instructions: one constructor per row of spec/opcode_table.json, which is the enumeration `op`
of R35 (10_state.md), each with the operand field of its word. An operand the instruction ignores (R65,
30_encoding.md) is kept, so that no bit of a word is lost by decoding (R62). -/

namespace Sys2Proof

/-- R60: how an instruction uses its operand field. -/
inductive OperandUse where
  | imm
  | addr
  | base
  | target
  | port
  | ignored
  deriving DecidableEq, Repr

/-- The opcode map of R63, and the tagged no-op of R66. -/
inductive Instr where
  | loadValue (imm : Operand)
  | loadAddr (addr : Operand)
  | loadIndAddr (addr : Operand)
  | loadIdxX (base : Operand)
  | loadIdxY (base : Operand)
  | loadSpX (ignored : Operand)
  | storeAddr (addr : Operand)
  | rand (ignored : Operand)
  | putPort (port : Operand)
  | addx (ignored : Operand)
  | addy (ignored : Operand)
  | subx (ignored : Operand)
  | suby (ignored : Operand)
  | copyToX (ignored : Operand)
  | copyFromX (ignored : Operand)
  | copyToY (ignored : Operand)
  | copyFromY (ignored : Operand)
  | copyToSp (ignored : Operand)
  | copyFromSp (ignored : Operand)
  | jump (target : Operand)
  | jumpIfEqual (target : Operand)
  | jumpIfNotEqual (target : Operand)
  | call (target : Operand)
  | ret (ignored : Operand)
  | incx (ignored : Operand)
  | decx (ignored : Operand)
  | push (ignored : Operand)
  | pop (ignored : Operand)
  | iret (ignored : Operand)
  | endRun (ignored : Operand)
  | nopUnassigned (opcode : Opcode) (ignored : Operand)
  deriving DecidableEq, Repr

end Sys2Proof
end

