-- ==== Sys2Proof/WellFormed.lean ====
section
/-! DEFINITION. Which instruction terms stand for a word: all but a no-op that carries an assigned opcode. -/

namespace Sys2Proof

/-- R63: the thirty assigned opcode values. -/
def assignedOpcodes : List Nat :=
  [1, 2, 3, 4, 5, 6, 7, 8, 9, 10, 11, 12, 13, 14, 15, 16, 17, 18, 19, 20, 21, 22, 23, 24, 25, 26, 27, 28, 30, 50]

/-- R63, R66: the opcode value has a row of its own in the opcode map. -/
def isAssigned (op : Opcode) : Bool :=
  assignedOpcodes.contains op.toNat

/-- R66: the no-op stands for the 226 unassigned opcode values only. The operand widths are in the types. -/
def Instr.wf : Instr → Bool
  | .nopUnassigned op _ => !isAssigned op
  | .loadValue _ | .loadAddr _ | .loadIndAddr _ | .loadIdxX _ | .loadIdxY _ | .loadSpX _ | .storeAddr _
  | .rand _ | .putPort _ | .addx _ | .addy _ | .subx _ | .suby _ | .copyToX _ | .copyFromX _ | .copyToY _
  | .copyFromY _ | .copyToSp _ | .copyFromSp _ | .jump _ | .jumpIfEqual _ | .jumpIfNotEqual _ | .call _
  | .ret _ | .incx _ | .decx _ | .push _ | .pop _ | .iret _ | .endRun _ => true

end Sys2Proof
end

