-- ==== Sys2Proof/Decode.lean ====
section
/-! DEFINITION. The decoder (R58, R63, R66, R74) and, after it, the encoder (R61) over the same opcode map. Every
32-bit word is an instruction (R67), so decoding a word refuses nothing; what is not one word is refused by name. -/

namespace Sys2Proof

/-- R58: `opcode <- IR[7:0]`. -/
def opcodeOf (w : Word) : Opcode := w.extractLsb' 0 8

/-- R58: `operand <- IR[31:8]`; bit 8 of the word is the operand's bit 0. -/
def operandOf (w : Word) : Operand := w.extractLsb' 8 24

/-- R63, R66, R74: the opcode map, from the two fields of a word. -/
def instrOfFields (op : Opcode) (o : Operand) : Instr :=
  match op.toNat with
  | 1 => .loadValue o
  | 2 => .loadAddr o
  | 3 => .loadIndAddr o
  | 4 => .loadIdxX o
  | 5 => .loadIdxY o
  | 6 => .loadSpX o
  | 7 => .storeAddr o
  | 8 => .rand o
  | 9 => .putPort o
  | 10 => .addx o
  | 11 => .addy o
  | 12 => .subx o
  | 13 => .suby o
  | 14 => .copyToX o
  | 15 => .copyFromX o
  | 16 => .copyToY o
  | 17 => .copyFromY o
  | 18 => .copyToSp o
  | 19 => .copyFromSp o
  | 20 => .jump o
  | 21 => .jumpIfEqual o
  | 22 => .jumpIfNotEqual o
  | 23 => .call o
  | 24 => .ret o
  | 25 => .incx o
  | 26 => .decx o
  | 27 => .push o
  | 28 => .pop o
  | 30 => .iret o
  | 50 => .endRun o
  | _ => .nopUnassigned op o

/-- R58, R74: the decoder, total on words. -/
def decode (w : Word) : Instr := instrOfFields (opcodeOf w) (operandOf w)

/-- Why bits given from outside the machine are no instruction word. -/
inductive DecodeRefusal where
  /-- R57: an instruction is exactly one 32-bit word, and more bits were given. -/
  | longerThanOneWord
  /-- The number given does not fit the number of bits given. -/
  | bitsDoNotFit
  deriving DecidableEq, Repr

/-- The instruction in a number of `nbits` bits, the bits above them zero: refused by name when it is not one word
(R57), and never for its opcode (R67). -/
def decodeBits (nbits w : Nat) : Except DecodeRefusal Instr :=
  if 32 < nbits then .error .longerThanOneWord
  else if 2 ^ nbits ≤ w then .error .bitsDoNotFit
  else .ok (decode (BitVec.ofNat 32 w))

/-- The decoder on a word numbered as spec/opcode_table.json numbers it: the table's bits are the word's bits. -/
def decodeTableWord (nbits w : Nat) : Option Instr :=
  (decodeBits nbits w).toOption

/-- R63: the opcode value of an instruction; the no-op carries its own (R66). -/
def Instr.opcode : Instr → Opcode
  | .loadValue _ => 1
  | .loadAddr _ => 2
  | .loadIndAddr _ => 3
  | .loadIdxX _ => 4
  | .loadIdxY _ => 5
  | .loadSpX _ => 6
  | .storeAddr _ => 7
  | .rand _ => 8
  | .putPort _ => 9
  | .addx _ => 10
  | .addy _ => 11
  | .subx _ => 12
  | .suby _ => 13
  | .copyToX _ => 14
  | .copyFromX _ => 15
  | .copyToY _ => 16
  | .copyFromY _ => 17
  | .copyToSp _ => 18
  | .copyFromSp _ => 19
  | .jump _ => 20
  | .jumpIfEqual _ => 21
  | .jumpIfNotEqual _ => 22
  | .call _ => 23
  | .ret _ => 24
  | .incx _ => 25
  | .decx _ => 26
  | .push _ => 27
  | .pop _ => 28
  | .iret _ => 30
  | .endRun _ => 50
  | .nopUnassigned op _ => op

/-- R58: the operand field of an instruction. -/
def Instr.operand : Instr → Operand
  | .loadValue o | .loadAddr o | .loadIndAddr o | .loadIdxX o | .loadIdxY o | .loadSpX o | .storeAddr o
  | .rand o | .putPort o | .addx o | .addy o | .subx o | .suby o | .copyToX o | .copyFromX o | .copyToY o
  | .copyFromY o | .copyToSp o | .copyFromSp o | .jump o | .jumpIfEqual o | .jumpIfNotEqual o | .call o
  | .ret o | .incx o | .decx o | .push o | .pop o | .iret o | .endRun o | .nopUnassigned _ o => o

/-- R60: what an instruction uses its operand for. -/
def Instr.operandUse : Instr → OperandUse
  | .loadValue _ => .imm
  | .loadAddr _ | .loadIndAddr _ | .storeAddr _ => .addr
  | .loadIdxX _ | .loadIdxY _ => .base
  | .putPort _ => .port
  | .jump _ | .jumpIfEqual _ | .jumpIfNotEqual _ | .call _ => .target
  | .loadSpX _ | .rand _ | .addx _ | .addy _ | .subx _ | .suby _ | .copyToX _ | .copyFromX _ | .copyToY _
  | .copyFromY _ | .copyToSp _ | .copyFromSp _ | .ret _ | .incx _ | .decx _ | .push _ | .pop _ | .iret _
  | .endRun _ | .nopUnassigned _ _ => .ignored

/-- R61: `operand * 256 + opcode`, for fields that fit by their types. -/
def encodeFields (op : Opcode) (o : Operand) : Word :=
  BitVec.ofNat 32 (o.toNat * 256 + op.toNat)

/-- R61: the word of an instruction. -/
def encode (i : Instr) : Word := encodeFields i.opcode i.operand

/-- R61, D4: the assembler's `encode(opcode, operand)` over numbers: a field that does not fit is rejected and no
word is made. -/
def encodeNumbers (op o : Nat) : Option Word :=
  if op ≤ 255 ∧ o ≤ 2 ^ 24 - 1 then some (BitVec.ofNat 32 (o * 256 + op)) else none

end Sys2Proof
end

