-- ==== Sys2Proof/Config.lean ====
section
/-! DEFINITION. The implementation parameters of R7 (00_scope.md), and the two values the spec leaves open: what a
random draw gives (R54, 20_memory.md) and which character port 2 renders (R52, 20_memory.md). -/

namespace Sys2Proof

/-- R7: the parameters fixed for one run. -/
structure Config where
  /-- `LENGTH`, the number of words of memory. -/
  length : Nat
  /-- `IRET_PC_ADDR`, the address IRET reads the new PC from. -/
  iretPcAddr : Word
  /-- `IRET_SP_ADDR`, the address IRET reads the new SP from. -/
  iretSpAddr : Word
  /-- Debug tracing, on (`true`) or off; it has no architectural effect (R128, 60_exceptions.md). -/
  debugTracing : Bool
  deriving DecidableEq, Repr

/-- R7, D7: `1 <= LENGTH <= 2^31`. The IRET slot addresses may be any words (U4; DESIGN CHOICE, log
entry 3: safe). -/
def Config.wf (c : Config) : Bool :=
  decide (1 ≤ c.length) && decide (c.length ≤ 2 ^ 31)

/-- R7: the parameters this hardware takes for a memory of `n` words: the IRET slots at `LENGTH - 1` and
`LENGTH` as the source writes them (C2 of 90_conflicts.md), and debug tracing off (DESIGN CHOICE, log entry 15: safe). -/
def Config.hardware (n : Nat) : Config :=
  { length := n, iretPcAddr := BitVec.ofNat 32 (n - 1), iretSpAddr := BitVec.ofNat 32 n, debugTracing := false }

/-- R7: the default, `LENGTH = 2000`. -/
def Config.default : Config := Config.hardware 2000

/-- R54, R86, D12: the draw that the random source answers to the `n`-th RAND of a run, an integer from 0 to 100:
a FREE VALUE. It has no body, so nothing is known of it but its range (DESIGN CHOICE, log entry 2: unsafe only for claims
that compare two runs). -/
opaque Config.freeDraw : Nat → Fin 101

/-- R7, R52, D11: `CHAR_OF`, the open host parameter that port 2 renders by. It has no body (DESIGN CHOICE, log
entry 4: safe). -/
opaque Config.charOf : Word → String

end Sys2Proof
end

