-- ==== Sys2Proof/Machine/State.lean ====
section
/-! DEFINITION. The whole state of the CORE and its memory (R37, 10_state.md), the reasons a step can stop, and the
state after reset (R36, R130). -/

namespace Sys2Proof.Machine

/-- R25: the run state. -/
inductive RunState where
  | idle
  | running
  | halted
  | faulted
  deriving DecidableEq, Repr

/-- R26: whether the access that failed was a read or a write. -/
inductive AccessKind where
  | read
  | write
  deriving DecidableEq, Repr

/-- R26: the address and the kind of the access that failed. -/
structure FaultRecord where
  addr : Word
  kind : AccessKind
  deriving DecidableEq, Repr

/-- R32, R52: the two logical ports of the output sink. -/
inductive OutPort where
  /-- Port 1, decimal text. -/
  | decimal
  /-- Port 2, a single character. -/
  | character
  deriving DecidableEq, Repr

/-- R32, R52: one event handed to the output sink. -/
structure OutEvent where
  port : OutPort
  data : Word
  deriving DecidableEq, Repr

/-- R38, R40: the memory cells that do not read as 0, by word address. In the canonical form (`Memory.wf`) the
addresses rise strictly and no listed cell holds 0. The unit is the 32-bit word (DESIGN CHOICE, log entry 5: safe). -/
structure Memory where
  cells : List (Nat × Word)
  deriving DecidableEq, Repr

/-- R37: the CORE and its memory. `config` and `draws` are the model's own fields (DESIGN CHOICE, log
entries 1, safe, and 2). -/
structure State where
  /-- R16: the accumulator. -/
  ac : Word
  /-- R17: index/arithmetic register X. -/
  x : Word
  /-- R18: index/arithmetic register Y. -/
  y : Word
  /-- R19: the reserved value register V. -/
  v : Word
  /-- R20: the stack pointer. -/
  sp : Word
  /-- R21: the program counter. -/
  pc : Word
  /-- R22: the instruction register. -/
  ir : Word
  /-- R25: the run state. -/
  run : RunState
  /-- R26: the fault record. -/
  fault : Option FaultRecord
  /-- R38: the memory. -/
  mem : Memory
  /-- R37, R53: the output sequence, oldest event first. -/
  output : List OutEvent
  /-- R7: the run's parameters, which no step changes. -/
  config : Config
  /-- R29, R54: how many random draws have been taken. -/
  draws : Nat
  deriving DecidableEq, Repr

/-- Why a step has no successor (DEDUCED from R77, log entry 9: safe). -/
inductive Fault where
  /-- Raised by `step` in the run state Halted: the run has ended by END or by a fetch fault and no step follows
  (R77). Safe: the machine has no successor there either. -/
  | runHalted
  /-- Raised by `step` in the run state Faulted, with the fault record: the run was aborted by a MemoryFault and no
  step follows (R77, R117). Safe: the machine has no successor there either. -/
  | runFaulted (record : Option FaultRecord)
  deriving DecidableEq, Repr

/-- What is refused by name. No instruction's meaning and no step raises one. -/
inductive Refusal where
  /-- Raised by an arm of `exec` whose instruction has no meaning yet: none is left. Safe. -/
  | notModelled (mnemonic : String)
  /-- Raised by `hostLoad` in any run state but Idle (R133, U17). Safe: the spec refuses the load. -/
  | loadOutsideIdle
  /-- Raised by `hostLoad` for more than LENGTH words (R133, U18). Safe: the spec fails the load as a whole. -/
  | imageTooLong
  deriving DecidableEq, Repr

/-- What an instruction or a step answers. -/
abbrev Result := Host.Outcome State Fault Refusal

/-- R36, R130: reset for a run with the parameters `c`: every register 0 but `SP = LENGTH`, Idle, no fault record,
memory all zero, no output. -/
def State.resetWith (c : Config) : State :=
  { ac := 0, x := 0, y := 0, v := 0, sp := BitVec.ofNat 32 c.length, pc := 0, ir := 0, run := .idle, fault := none,
    mem := { cells := [] }, output := [], config := c, draws := 0 }

/-- R36, R130: reset with the default parameters. -/
def State.reset : State := State.resetWith Config.default

end Sys2Proof.Machine
end

