-- ==== Sys2Proof/Machine/Operands.lean ====
section
/-! DEFINITION. The 32-bit arithmetic of the `alu` (R11, R88) and the operand forms of R59 and R60: immediate,
absolute, indexed by X, Y or X over SP, jump target and port. -/

namespace Sys2Proof.Machine

/-- R11, R59: the operand zero-extended to 32 bits. -/
def zext32 (o : Operand) : Word := o.setWidth 32

/-- R11, R88: `a +32 b`, the sum modulo 2^32. -/
def add32 (a b : Word) : Word := a + b

/-- R11, R88: `a -32 b`, the difference modulo 2^32. -/
def sub32 (a b : Word) : Word := a - b

/-- R10: the two's-complement reading of a word. -/
def signed32 (w : Word) : Int := w.toInt

/-- R45: the effective address `EA(base, index)`. -/
def effectiveAddress (base index : Word) : Word := add32 base index

/-- R59: the operand as an immediate value. -/
def immediate (o : Operand) : Word := zext32 o

/-- R59: the operand as an absolute memory address. -/
def absolute (o : Operand) : Word := zext32 o

/-- R59, R101: the operand as an absolute jump target. -/
def jumpTarget (o : Operand) : Word := zext32 o

/-- R82: the operand as the base of an address indexed by X. -/
def indexedByX (o : Operand) (s : State) : Word := effectiveAddress (zext32 o) s.x

/-- R83: the operand as the base of an address indexed by Y. -/
def indexedByY (o : Operand) (s : State) : Word := effectiveAddress (zext32 o) s.y

/-- R84: the stack address `SP +32 X`. -/
def stackIndexedByX (s : State) : Word := effectiveAddress s.sp s.x

/-- R87: the output port an operand selects; all 24 bits are compared. -/
def portOf (o : Operand) : Option OutPort :=
  if zext32 o = 1#32 then some .decimal else if zext32 o = 2#32 then some .character else none

end Sys2Proof.Machine
end

