-- ==== Sys2Proof/Machine/Ops.lean ====
section
/-! DEFINITION. The named operations over registers and memory: writing a register, the memory primitives of
20_memory.md, fetching, taking a MemoryFault, halting, output, random draws, and the stack. -/

namespace Sys2Proof.Machine

/-! ### Registers (R23: a write has no side effect) -/

/-- `AC <- w` (R16). -/
def State.setAc (s : State) (w : Word) : State := { s with ac := w }

/-- `X <- w` (R17). -/
def State.setX (s : State) (w : Word) : State := { s with x := w }

/-- `Y <- w` (R18). -/
def State.setY (s : State) (w : Word) : State := { s with y := w }

/-- `SP <- w` (R20): no check against LENGTH. -/
def State.setSp (s : State) (w : Word) : State := { s with sp := w }

/-- `PC <- w` (R21). -/
def State.setPc (s : State) (w : Word) : State := { s with pc := w }

/-! ### Memory cells (R38, R40) -/

/-- The word an address reads as in a list of cells; an unlisted address reads as 0 (R38, R132). -/
def lookupCell : List (Nat × Word) → Nat → Word
  | [], _ => 0#32
  | (b, w) :: rest, a => if a = b then w else lookupCell rest a

/-- The cells after `w` is stored at `a`: in address order, and with no cell listed that holds 0. -/
def storeCell : List (Nat × Word) → Nat → Word → List (Nat × Word)
  | [], a, w => if w = 0#32 then [] else [(a, w)]
  | (b, u) :: rest, a, w =>
    if a < b then (if w = 0#32 then (b, u) :: rest else (a, w) :: (b, u) :: rest)
    else if a = b then (if w = 0#32 then rest else (a, w) :: rest)
    else (b, u) :: storeCell rest a w

/-- The canonical form of a list of cells: addresses strictly rising, no cell that holds 0. -/
def cellsWf : List (Nat × Word) → Bool
  | [] => true
  | (a, w) :: rest => decide (w ≠ 0#32) && rest.all (fun c => decide (a < c.1)) && cellsWf rest

/-- The word at address `a`. -/
def Memory.read (m : Memory) (a : Nat) : Word := lookupCell m.cells a

/-- The memory after `w` is stored at address `a`. -/
def Memory.write (m : Memory) (a : Nat) (w : Word) : Memory := { cells := storeCell m.cells a w }

/-- The memory is in its canonical form. -/
def Memory.wf (m : Memory) : Bool := cellsWf m.cells

/-- R38: every listed cell is one of the `n` cells of the memory. -/
def Memory.within (m : Memory) (n : Nat) : Bool := m.cells.all (fun c => decide (c.1 < n))

/-- R133: the words copied over the addresses from `a` upward. -/
def Memory.copyIn (m : Memory) (a : Nat) : List Word → Memory
  | [] => m
  | w :: rest => (m.write a w).copyIn (a + 1) rest

/-! ### The access primitives -/

/-- R41, R44: the address is one of the memory's. It is never wrapped, clamped or reduced. -/
def inMemory (s : State) (a : Word) : Bool := decide (a.toNat < s.config.length)

/-- R41: `MemRead(a, 1)`. -/
def memRead (s : State) (a : Word) : Except FaultRecord Word :=
  if inMemory s a then .ok (s.mem.read a.toNat) else .error { addr := a, kind := .read }

/-- R42: `MemWrite(a, 1, w)`. No cell changes when the address is outside memory. -/
def memWrite (s : State) (a w : Word) : Except FaultRecord State :=
  if inMemory s a then .ok { s with mem := s.mem.write a.toNat w } else .error { addr := a, kind := .write }

/-- R43, R72: `FetchRead(a)`; `none` is the out-of-bounds indication, which is no MemoryFault. -/
def fetchRead (s : State) (a : Word) : Option Word :=
  if inMemory s a then some (s.mem.read a.toNat) else none

/-- R73: the fetch phase's writes, `IR <- w; PC <- PC +32 1`. -/
def State.fetched (s : State) (w : Word) : State := { s with ir := w, pc := add32 s.pc 1#32 }

/-! ### Stopping -/

/-- R25: `halt`, the run state becomes Halted. -/
def State.halt (s : State) : State := { s with run := .halted }

/-- R117, R118: taking a MemoryFault, the CORE's one exception. The run state becomes Faulted and the fault record
gets the access that failed; nothing else changes. There is no handler (R121). DEDUCED, log entry 7 (safe): the
answer is a next state; what R118 leaves in the registers, log entry 8 (unsafe). -/
def State.raiseMemoryFault (s : State) (r : FaultRecord) : State := { s with run := .faulted, fault := some r }

/-- R118: the end of an execute phase. What the phase computed is committed whole, or, when an access failed, nothing
of it is and the MemoryFault is taken in the state the phase began in. -/
def commit (s : State) (r : Except FaultRecord State) : Result :=
  match r with
  | .ok t => .next t
  | .error e => .next (s.raiseMemoryFault e)

/-- R107, R122: the return from a trap: PC and SP from the two reserved slots, PC's slot first, written only when
both reads succeed. It restores nothing else. -/
def restoreFromSlots (s : State) : Except FaultRecord State :=
  match memRead s s.config.iretPcAddr with
  | .error e => .error e
  | .ok p =>
    match memRead s s.config.iretSpAddr with
    | .error e => .error e
    | .ok q => .ok ((s.setPc p).setSp q)

/-! ### Output and random draws -/

/-- R52, R53: `Emit(port, v)`, one event after those before it. -/
def State.emit (s : State) (e : OutEvent) : State := { s with output := s.output ++ [e] }

/-- R54: one more draw has been taken from the random source. -/
def State.countDraw (s : State) : State := { s with draws := s.draws + 1 }

/-- R54, D12: `DrawRand()`, the free value of this draw, as a 32-bit word. -/
def drawRand (s : State) : Word := BitVec.ofNat 32 (Config.freeDraw s.draws).val

/-! ### The stack (R110: it grows toward lower addresses) -/

/-- R105, R111: the address a push writes, `SP -32 1`. -/
def pushAddress (s : State) : Word := sub32 s.sp 1#32

/-- R105, R111: pre-decrement and store; SP is written only when the store succeeds. -/
def pushWord (s : State) (w : Word) : Except FaultRecord State :=
  match memWrite s (pushAddress s) w with
  | .error e => .error e
  | .ok t => .ok (t.setSp (pushAddress s))

/-- R106, R112: read the top of the stack and post-increment; the cell keeps its value. -/
def popWord (s : State) : Except FaultRecord (Word × State) :=
  match memRead s s.sp with
  | .error e => .error e
  | .ok w => .ok (w, s.setSp (add32 s.sp 1#32))

/-- R80, R82 to R84: load AC from an address. -/
def loadAc (s : State) (a : Word) : Except FaultRecord State :=
  match memRead s a with
  | .error e => .error e
  | .ok w => .ok (s.setAc w)

end Sys2Proof.Machine
end

