-- ==== Sys2Proof/Machine/Arithmetic.lean ====
section
/-! DEFINITION. Integer arithmetic, opcodes 10 to 13, 25 and 26 (43_arithmetic.md). -/

namespace Sys2Proof.Machine

/-- ADDX (R89): `AC <- AC +32 X`. -/
def execAddx (s : State) : Result := .next (s.setAc (add32 s.ac s.x))

/-- ADDY (R90): `AC <- AC +32 Y`. -/
def execAddy (s : State) : Result := .next (s.setAc (add32 s.ac s.y))

/-- SUBX (R91): `AC <- AC -32 X`. -/
def execSubx (s : State) : Result := .next (s.setAc (sub32 s.ac s.x))

/-- SUBY (R92): `AC <- AC -32 Y`. -/
def execSuby (s : State) : Result := .next (s.setAc (sub32 s.ac s.y))

/-- INCX (R93): `X <- X +32 1`. -/
def execIncx (s : State) : Result := .next (s.setX (add32 s.x 1#32))

/-- DECX (R94): `X <- X -32 1`. -/
def execDecx (s : State) : Result := .next (s.setX (sub32 s.x 1#32))

end Sys2Proof.Machine
end

