-- ==== Sys2Proof/Machine/Flags.lean ====
section
/-! DEFINITION. The CORE has no flags and no condition codes (R24, 10_state.md): no arithmetic instruction records a
carry, an overflow or a sign. The one condition there is, is the conditional jumps' test of AC itself. -/

namespace Sys2Proof.Machine

/-- R24, R103, R104: the zero test of AC, on all 32 bits. -/
def acIsZero (s : State) : Bool := s.ac == 0#32

end Sys2Proof.Machine
end

