-- ==== Sys2Proof/Machine/ControlTransfer.lean ====
section
/-! DEFINITION. Control transfer and halt, opcodes 20 to 24, 30 and 50 (45_control_transfer.md), and the no-op of the
unassigned opcodes (R66, 30_encoding.md). The PC is already the instruction's address plus 1 (R73). -/

namespace Sys2Proof.Machine

/-- JUMP (R102): `PC <- zext_32(operand)`. -/
def execJump (o : Operand) (s : State) : Result := .next (s.setPc (jumpTarget o))

/-- JUMP_IF_EQUAL (R103): taken when AC is exactly 0. -/
def execJumpIfEqual (o : Operand) (s : State) : Result :=
  if acIsZero s then .next (s.setPc (jumpTarget o)) else .next s

/-- JUMP_IF_NOT_EQUAL (R104): taken when AC is not 0. -/
def execJumpIfNotEqual (o : Operand) (s : State) : Result :=
  if acIsZero s then .next s else .next (s.setPc (jumpTarget o))

/-- CALL (R105): push the already advanced PC, then jump. -/
def execCall (o : Operand) (s : State) : Result :=
  match pushWord s s.pc with
  | .error e => commit s (.error e)
  | .ok t => commit s (.ok (t.setPc (jumpTarget o)))

/-- RET (R106): pop the return address into PC. -/
def execRet (s : State) : Result :=
  match popWord s with
  | .error e => commit s (.error e)
  | .ok (w, t) => commit s (.ok (t.setPc w))

/-- IRET (R107): PC and SP from the two reserved slots. -/
def execIret (s : State) : Result := commit s (restoreFromSlots s)

/-- END (R108): `halt`. -/
def execEnd (s : State) : Result := .next s.halt

/-- NOP_UNASSIGNED (R66): the execute phase does nothing. -/
def execNopUnassigned (s : State) : Result := .next s

end Sys2Proof.Machine
end

