-- ==== Sys2Proof/Machine/LoadStore.lean ====
section
/-! DEFINITION. Loads and stores, opcodes 1 to 7 (41_load_store.md). -/

namespace Sys2Proof.Machine

/-- LOAD_VALUE (R79): `AC <- zext_32(operand)`. -/
def execLoadValue (o : Operand) (s : State) : Result := .next (s.setAc (immediate o))

/-- LOAD_ADDR (R80): `AC <- MemRead(zext_32(operand), 1)`. -/
def execLoadAddr (o : Operand) (s : State) : Result := commit s (loadAc s (absolute o))

/-- LOAD_IND_ADDR (R81): the pointer first, a full word, then the word it points at. -/
def execLoadIndAddr (o : Operand) (s : State) : Result :=
  match memRead s (absolute o) with
  | .error e => commit s (.error e)
  | .ok p => commit s (loadAc s p)

/-- LOAD_IDX_X (R82): `AC <- MemRead(zext_32(operand) +32 X, 1)`. -/
def execLoadIdxX (o : Operand) (s : State) : Result := commit s (loadAc s (indexedByX o s))

/-- LOAD_IDX_Y (R83): `AC <- MemRead(zext_32(operand) +32 Y, 1)`. -/
def execLoadIdxY (o : Operand) (s : State) : Result := commit s (loadAc s (indexedByY o s))

/-- LOAD_SP_X (R84): `AC <- MemRead(SP +32 X, 1)`. -/
def execLoadSpX (s : State) : Result := commit s (loadAc s (stackIndexedByX s))

/-- STORE_ADDR (R85): `MemWrite(zext_32(operand), 1, AC)`. -/
def execStoreAddr (o : Operand) (s : State) : Result := commit s (memWrite s (absolute o) s.ac)

end Sys2Proof.Machine
end

