-- ==== Sys2Proof/Machine/RandomOutput.lean ====
section
/-! DEFINITION. Random value and output port, opcodes 8 and 9 (42_io_random.md). -/

namespace Sys2Proof.Machine

/-- R86: AC gets the word the random source answered, and the draw is counted. -/
def loadDraw (w : Word) (s : State) : State := (s.setAc w).countDraw

/-- RAND (R86): `AC <- zext_32(DrawRand())`. -/
def execRand (s : State) : Result := .next (loadDraw (drawRand s) s)

/-- PUT_PORT (R87): one event for port 1 or 2, and nothing for any other operand. -/
def execPutPort (o : Operand) (s : State) : Result :=
  match portOf o with
  | some p => .next (s.emit { port := p, data := s.ac })
  | none => .next s

end Sys2Proof.Machine
end

