-- ==== Sys2Proof/Machine/RegisterTransfer.lean ====
section
/-! DEFINITION. Register transfers, opcodes 14 to 19 (44_register_transfer.md). -/

namespace Sys2Proof.Machine

/-- COPY_TO_X (R95): `X <- AC`. -/
def execCopyToX (s : State) : Result := .next (s.setX s.ac)

/-- COPY_FROM_X (R96): `AC <- X`. -/
def execCopyFromX (s : State) : Result := .next (s.setAc s.x)

/-- COPY_TO_Y (R97): `Y <- AC`. -/
def execCopyToY (s : State) : Result := .next (s.setY s.ac)

/-- COPY_FROM_Y (R98): `AC <- Y`. -/
def execCopyFromY (s : State) : Result := .next (s.setAc s.y)

/-- COPY_TO_SP (R99): `SP <- AC`, whatever the value. -/
def execCopyToSp (s : State) : Result := .next (s.setSp s.ac)

/-- COPY_FROM_SP (R100): `AC <- SP`. -/
def execCopyFromSp (s : State) : Result := .next (s.setAc s.sp)

end Sys2Proof.Machine
end

