-- ==== Sys2Proof/Machine/Stack.lean ====
section
/-! DEFINITION. Stack push and pop, opcodes 27 and 28 (46_stack.md). -/

namespace Sys2Proof.Machine

/-- PUSH (R111): pre-decrement SP and store AC. -/
def execPush (s : State) : Result := commit s (pushWord s s.ac)

/-- POP (R112): load AC from the top of the stack and post-increment SP. -/
def execPop (s : State) : Result :=
  match popWord s with
  | .error e => commit s (.error e)
  | .ok (w, t) => commit s (.ok (t.setAc w))

end Sys2Proof.Machine
end

