-- ==== Sys2Proof/Machine/Dispatch.lean ====
section
/-! DEFINITION. The execute phase (R75, 40_fetch_decode.md): one arm per instruction, each one call of its meaning. -/

namespace Sys2Proof.Machine

/-- R71, R75: the execute phase, in the state after the fetch phase. -/
def exec (i : Instr) (s : State) : Host.Outcome State Fault Refusal :=
  match i with
  | .loadValue imm => Sys2Proof.Machine.execLoadValue imm s
  | .loadAddr addr => Sys2Proof.Machine.execLoadAddr addr s
  | .loadIndAddr addr => Sys2Proof.Machine.execLoadIndAddr addr s
  | .loadIdxX base => Sys2Proof.Machine.execLoadIdxX base s
  | .loadIdxY base => Sys2Proof.Machine.execLoadIdxY base s
  | .loadSpX _ => Sys2Proof.Machine.execLoadSpX s
  | .storeAddr addr => Sys2Proof.Machine.execStoreAddr addr s
  | .rand _ => Sys2Proof.Machine.execRand s
  | .putPort port => Sys2Proof.Machine.execPutPort port s
  | .addx _ => Sys2Proof.Machine.execAddx s
  | .addy _ => Sys2Proof.Machine.execAddy s
  | .subx _ => Sys2Proof.Machine.execSubx s
  | .suby _ => Sys2Proof.Machine.execSuby s
  | .copyToX _ => Sys2Proof.Machine.execCopyToX s
  | .copyFromX _ => Sys2Proof.Machine.execCopyFromX s
  | .copyToY _ => Sys2Proof.Machine.execCopyToY s
  | .copyFromY _ => Sys2Proof.Machine.execCopyFromY s
  | .copyToSp _ => Sys2Proof.Machine.execCopyToSp s
  | .copyFromSp _ => Sys2Proof.Machine.execCopyFromSp s
  | .jump target => Sys2Proof.Machine.execJump target s
  | .jumpIfEqual target => Sys2Proof.Machine.execJumpIfEqual target s
  | .jumpIfNotEqual target => Sys2Proof.Machine.execJumpIfNotEqual target s
  | .call target => Sys2Proof.Machine.execCall target s
  | .ret _ => Sys2Proof.Machine.execRet s
  | .incx _ => Sys2Proof.Machine.execIncx s
  | .decx _ => Sys2Proof.Machine.execDecx s
  | .push _ => Sys2Proof.Machine.execPush s
  | .pop _ => Sys2Proof.Machine.execPop s
  | .iret _ => Sys2Proof.Machine.execIret s
  | .endRun _ => Sys2Proof.Machine.execEnd s
  | .nopUnassigned _ _ => Sys2Proof.Machine.execNopUnassigned s

end Sys2Proof.Machine
end

