-- ==== Sys2Proof/Machine/HostPort.lean ====
section
/-! DEFINITION. What the host does to the machine and sees of it (R34, R136): loading an image, `run()`, the codes of
the host control port, the rendering of the output, the cause of a stop and the debug trace. -/

namespace Sys2Proof.Machine

/-- R135: `run()` makes Idle Running, and does nothing in any other run state. The steps that follow are `step`'s. -/
def hostRun (s : State) : State :=
  match s.run with
  | .idle => { s with run := .running }
  | .running | .halted | .faulted => s

/-- R133: `load(words)` copies the image to addresses 0 upward, in Idle only; an image longer than LENGTH fails as a
whole. -/
def hostLoad (ws : List Word) (s : State) : Result :=
  if s.run ≠ .idle then .refused .loadOutsideIdle
  else if s.config.length < ws.length then .refused .imageTooLong
  else .next { s with mem := s.mem.copyIn 0 ws }

/-- R25, R34: the run state as the host control port's `state[1:0]` gives it. -/
def RunState.code : RunState → BitVec 2
  | .idle => 0
  | .running => 1
  | .halted => 2
  | .faulted => 3

/-- R32: the `out_port[1:0]` of an event. -/
def OutPort.code : OutPort → BitVec 2
  | .decimal => 1
  | .character => 2

/-- R25: the halt flag. -/
def haltFlag (s : State) : Bool := decide (s.run = .halted)

/-- R114: the failure kinds. -/
inductive FailureKind where
  | none
  | fetchFault
  | memoryFault
  deriving DecidableEq, Repr

/-- R114, D17: the numeric codes of the failure kinds. -/
def FailureKind.code : FailureKind → Nat
  | .none => 0
  | .fetchFault => 1
  | .memoryFault => 2

/-- R115: the run was stopped by END exactly when it is Halted and `IR[7:0] = 50`. -/
def stoppedByEnd (s : State) : Bool := decide (s.run = .halted) && decide (opcodeOf s.ir = 50#8)

/-- R114, R115: the failure kind that stopped a run, told as the host tells it (DEDUCED, log entry 11: safe). -/
def failureOf (s : State) : FailureKind :=
  match s.run with
  | .faulted => .memoryFault
  | .halted => if stoppedByEnd s then .none else .fetchFault
  | .idle | .running => .none

/-- R52: what the sink shows for one event: port 1 the signed decimal, port 2 the open `CHAR_OF`. -/
def renderEvent (e : OutEvent) : String :=
  match e.port with
  | .decimal => toString (signed32 e.data)
  | .character => Config.charOf e.data

/-- R53: what the sink shows for the whole output, in order. -/
def renderOutput (s : State) : List String := s.output.map renderEvent

/-- R128: the register values the host's debug trace may show. -/
structure RegisterView where
  ac : Word
  x : Word
  y : Word
  v : Word
  sp : Word
  pc : Word
  ir : Word
  deriving DecidableEq, Repr

/-- R34, R136: the registers as the host reads them. -/
def registersOf (s : State) : RegisterView :=
  { ac := s.ac, x := s.x, y := s.y, v := s.v, sp := s.sp, pc := s.pc, ir := s.ir }

/-- R7, R128: the same state in a run with debug tracing on (`true`) or off. -/
def State.withDebugTracing (s : State) (on : Bool) : State :=
  { s with config := { s.config with debugTracing := on } }

/-- R128, D25: what the trace shows for the next step, where it is on: the registers after the fetch phase and before the
execute phase, when there is one. Off, it shows nothing (R7). It changes no state. -/
def debugTrace (s : State) : Option RegisterView :=
  if s.config.debugTracing then
    match s.run with
    | .running => (fetchRead s s.pc).map (fun w => registersOf (s.fetched w))
    | .idle | .halted | .faulted => none
  else none

end Sys2Proof.Machine
end

