-- ==== Sys2Proof/Machine/Step.lean ====
section
/-! DEFINITION. The step of R71 (40_fetch_decode.md), and the placing of one instruction where the step fetches. -/

namespace Sys2Proof.Machine

/-- R71: fetch, decode, execute. A step taken in Idle is the host's `run()` (R135; DESIGN CHOICE, log entry 6:
unsafe for claims about a host that never calls it); Halted and Faulted have no successor (R77; DEDUCED, log entry 9:
safe). -/
def step (s : State) : Host.Outcome State Fault Refusal :=
  match s.run with
  | .idle => .next (hostRun s)
  | .halted => .fault .runHalted
  | .faulted => .fault (.runFaulted s.fault)
  | .running =>
    match fetchRead s s.pc with
    | none => .next s.halt
    | some w => exec (decode w) (s.fetched w)

/-- The instruction word `w` (its bits above `nbits` zero) stored where the next step fetches, and the run started:
it stands for the load and the `run()` of the host (R134; DESIGN CHOICE, log entry 6). Where the PC names no cell there is nothing
to store into, and the next step's fetch fails (R76). -/
def State.withFetchWord (s : State) (nbits w : Nat) : State :=
  match memWrite s s.pc (BitVec.ofNat 32 (w % 2 ^ nbits)) with
  | .ok t => { t with run := .running }
  | .error _ => { s with run := .running }

end Sys2Proof.Machine
end

