-- ==== Sys2Proof/Safety.lean ====
section
/-! DEFINITION. What the claims speak of: when a run has ended and ended well (R138), the invariant of every run, and
the tables of the spec that say which instruction may write what (R16 to R22) and which access fails (R116). -/

namespace Sys2Proof.Machine

/-- R138: the run has ended. -/
abbrev State.ended (s : State) : Prop := s.run = .halted ∨ s.run = .faulted

/-- R138: the run ended well; a Faulted run never did (R117). -/
abbrev State.endedWell (s : State) : Prop := s.run = .halted

/-- What holds in every run: legal parameters (R7), memory in its canonical form and with `LENGTH` cells only (R38), a
fault record exactly in Faulted (R26), and no END word in IR while the run can still go on (R115). -/
abbrev State.Inv (s : State) : Prop :=
  s.config.wf = true ∧ s.mem.wf = true ∧ s.mem.within s.config.length = true ∧
  (s.fault.isSome = true ↔ s.run = .faulted) ∧
  (s.run = .idle ∨ s.run = .running → opcodeOf s.ir ≠ 50#8)

/-- R16: the instructions that may write AC. -/
def mayWriteAc : Instr → Bool
  | .loadValue _ | .loadAddr _ | .loadIndAddr _ | .loadIdxX _ | .loadIdxY _ | .loadSpX _ | .rand _ | .addx _
  | .addy _ | .subx _ | .suby _ | .copyFromX _ | .copyFromY _ | .copyFromSp _ | .pop _ => true
  | .storeAddr _ | .putPort _ | .copyToX _ | .copyToY _ | .copyToSp _ | .jump _ | .jumpIfEqual _
  | .jumpIfNotEqual _ | .call _ | .ret _ | .incx _ | .decx _ | .push _ | .iret _ | .endRun _
  | .nopUnassigned _ _ => false

/-- R17: the instructions that may write X. -/
def mayWriteX : Instr → Bool
  | .copyToX _ | .incx _ | .decx _ => true
  | .loadValue _ | .loadAddr _ | .loadIndAddr _ | .loadIdxX _ | .loadIdxY _ | .loadSpX _ | .storeAddr _ | .rand _
  | .putPort _ | .addx _ | .addy _ | .subx _ | .suby _ | .copyFromX _ | .copyToY _ | .copyFromY _ | .copyToSp _
  | .copyFromSp _ | .jump _ | .jumpIfEqual _ | .jumpIfNotEqual _ | .call _ | .ret _ | .push _ | .pop _ | .iret _
  | .endRun _ | .nopUnassigned _ _ => false

/-- R18, R97: the one instruction that may write Y. -/
def mayWriteY : Instr → Bool
  | .copyToY _ => true
  | .loadValue _ | .loadAddr _ | .loadIndAddr _ | .loadIdxX _ | .loadIdxY _ | .loadSpX _ | .storeAddr _ | .rand _
  | .putPort _ | .addx _ | .addy _ | .subx _ | .suby _ | .copyToX _ | .copyFromX _ | .copyFromY _ | .copyToSp _
  | .copyFromSp _ | .jump _ | .jumpIfEqual _ | .jumpIfNotEqual _ | .call _ | .ret _ | .incx _ | .decx _ | .push _
  | .pop _ | .iret _ | .endRun _ | .nopUnassigned _ _ => false

/-- R20: the instructions that may write SP. -/
def mayWriteSp : Instr → Bool
  | .copyToSp _ | .call _ | .push _ | .ret _ | .pop _ | .iret _ => true
  | .loadValue _ | .loadAddr _ | .loadIndAddr _ | .loadIdxX _ | .loadIdxY _ | .loadSpX _ | .storeAddr _ | .rand _
  | .putPort _ | .addx _ | .addy _ | .subx _ | .suby _ | .copyToX _ | .copyFromX _ | .copyToY _ | .copyFromY _
  | .copyFromSp _ | .jump _ | .jumpIfEqual _ | .jumpIfNotEqual _ | .incx _ | .decx _ | .endRun _
  | .nopUnassigned _ _ => false

/-- R21, R75: the instructions whose execute phase may write PC. -/
def mayWritePc : Instr → Bool
  | .jump _ | .jumpIfEqual _ | .jumpIfNotEqual _ | .call _ | .ret _ | .iret _ => true
  | .loadValue _ | .loadAddr _ | .loadIndAddr _ | .loadIdxX _ | .loadIdxY _ | .loadSpX _ | .storeAddr _ | .rand _
  | .putPort _ | .addx _ | .addy _ | .subx _ | .suby _ | .copyToX _ | .copyFromX _ | .copyToY _ | .copyFromY _
  | .copyToSp _ | .copyFromSp _ | .incx _ | .decx _ | .push _ | .pop _ | .endRun _ | .nopUnassigned _ _ => false

/-- R85, R105, R111: the address an instruction stores to, computed as its meaning computes it. -/
def storedAddress (i : Instr) (s : State) : Option Nat :=
  match i with
  | .storeAddr o => some (absolute o).toNat
  | .call _ | .push _ => some (pushAddress s).toNat
  | .loadValue _ | .loadAddr _ | .loadIndAddr _ | .loadIdxX _ | .loadIdxY _ | .loadSpX _ | .rand _
  | .putPort _ | .addx _ | .addy _ | .subx _ | .suby _ | .copyToX _ | .copyFromX _ | .copyToY _ | .copyFromY _
  | .copyToSp _ | .copyFromSp _ | .jump _ | .jumpIfEqual _ | .jumpIfNotEqual _ | .ret _ | .incx _ | .decx _
  | .pop _ | .iret _ | .endRun _ | .nopUnassigned _ _ => none

/-- R116: the read that fails, when the address is not below LENGTH. -/
def readFails (s : State) (a : Word) : Option FaultRecord :=
  if s.config.length ≤ a.toNat then some { addr := a, kind := .read } else none

/-- R116: the write that fails, when the address is not below LENGTH. -/
def writeFails (s : State) (a : Word) : Option FaultRecord :=
  if s.config.length ≤ a.toNat then some { addr := a, kind := .write } else none

/-- R116, R119: the table of MemoryFault causes: the first access of the instruction that fails, if one does. -/
def failingAccess (i : Instr) (s : State) : Option FaultRecord :=
  match i with
  | .loadAddr o => readFails s (o.setWidth 32)
  | .loadIndAddr o => (readFails s (o.setWidth 32)).or (readFails s (s.mem.read o.toNat))
  | .loadIdxX o => readFails s (o.setWidth 32 + s.x)
  | .loadIdxY o => readFails s (o.setWidth 32 + s.y)
  | .loadSpX _ => readFails s (s.sp + s.x)
  | .storeAddr o => writeFails s (o.setWidth 32)
  | .call _ => writeFails s (s.sp - 1#32)
  | .ret _ => readFails s s.sp
  | .push _ => writeFails s (s.sp - 1#32)
  | .pop _ => readFails s s.sp
  | .iret _ => (readFails s s.config.iretPcAddr).or (readFails s s.config.iretSpAddr)
  | .loadValue _ | .rand _ | .putPort _ | .addx _ | .addy _ | .subx _ | .suby _ | .copyToX _ | .copyFromX _
  | .copyToY _ | .copyFromY _ | .copyToSp _ | .copyFromSp _ | .jump _ | .jumpIfEqual _ | .jumpIfNotEqual _
  | .incx _ | .decx _ | .endRun _ | .nopUnassigned _ _ => none

/-- R75: the PC after an execute phase that does not fault; `s` is the state after the fetch phase, so `s.pc` is the
instruction's address plus 1. -/
def nextPc (i : Instr) (s : State) : Word :=
  match i with
  | .jump o | .call o => o.setWidth 32
  | .jumpIfEqual o => if s.ac = 0#32 then o.setWidth 32 else s.pc
  | .jumpIfNotEqual o => if s.ac ≠ 0#32 then o.setWidth 32 else s.pc
  | .ret _ => s.mem.read s.sp.toNat
  | .iret _ => s.mem.read s.config.iretPcAddr.toNat
  | .loadValue _ | .loadAddr _ | .loadIndAddr _ | .loadIdxX _ | .loadIdxY _ | .loadSpX _ | .storeAddr _ | .rand _
  | .putPort _ | .addx _ | .addy _ | .subx _ | .suby _ | .copyToX _ | .copyFromX _ | .copyToY _ | .copyFromY _
  | .copyToSp _ | .copyFromSp _ | .incx _ | .decx _ | .push _ | .pop _ | .endRun _ | .nopUnassigned _ _ => s.pc

end Sys2Proof.Machine
end

