-- ==== Sys2Proof/Certificates/Slice0/Obligations.lean ====
section
/-! DEFINITION. The statements for the provers. `exec` is the execute phase, in the state after the fetch phase (R73), so
`s.pc` is the instruction's address plus 1. Memory is read one cell at a time, by `Memory.read`. -/

open Sys2Proof Sys2Proof.Machine

/-! ### Encoding -/

/-- Words of 95_test_vectors.md, one of each family, decode to the instruction they stand for. -/
def Obligations.VectorWordsDecode : Prop :=
  decode 0x00000501#32 = .loadValue 5 ∧ decode 0x00001402#32 = .loadAddr 20 ∧
  decode 0xABCDEF08#32 = .rand 0xABCDEF ∧ decode 0x00010109#32 = .putPort 0x101 ∧
  decode 0x0000000C#32 = .subx 0 ∧ decode 0x0000001A#32 = .decx 0 ∧
  decode 0xFFFFFF0F#32 = .copyFromX 0xFFFFFF ∧ decode 0x00000417#32 = .call 4 ∧
  decode 0x0000001E#32 = .iret 0 ∧ decode 0x00000032#32 = .endRun 0 ∧
  decode 0x0000001C#32 = .pop 0 ∧ decode 0x00000031#32 = .nopUnassigned 49 0

/-- The round-trip law, from instructions: every well-formed instruction is what its word decodes to, whatever its
operand (30_encoding.md section 2). -/
def Obligations.DecodeInvertsEncode : Prop :=
  ∀ i : Instr, i.wf = true → decode (encode i) = i

/-- The round-trip law, from words: every 32-bit word is a well-formed instruction and the instruction's word is that
word, so no bit of it is dropped (30_encoding.md section 2). -/
def Obligations.EncodeInvertsDecode : Prop :=
  ∀ w : Word, (decode w).wf = true ∧ encode (decode w) = w

/-- The opcode values with no row in the opcode map, and only those, decode to the tagged no-op, with every operand
(30_encoding.md section 4, the spec's decision D8). -/
def Obligations.UnassignedOpcodesDecodeToNoOp : Prop :=
  ∀ w : Word,
    decode w = .nopUnassigned (w.extractLsb' 0 8) (w.extractLsb' 8 24) ↔
      w.toNat % 256 = 0 ∨ w.toNat % 256 = 29 ∨ (31 ≤ w.toNat % 256 ∧ w.toNat % 256 ≤ 49) ∨ 51 ≤ w.toNat % 256

/-- The assembler's encoding of two numbers gives `operand * 256 + opcode` when both fit and no word otherwise
(30_encoding.md section 2, the spec's decision D4). -/
def Obligations.EncodeNumbersRejectsWideFields : Prop :=
  ∀ op o : Nat,
    (op < 256 → o < 2 ^ 24 → ∃ w, encodeNumbers op o = some w ∧ w.toNat = o * 256 + op) ∧
    (256 ≤ op ∨ 2 ^ 24 ≤ o → encodeNumbers op o = none)

/-- For an instruction whose operand is ignored, every value of bits 31:8 gives the same behaviour (30_encoding.md
section 3, the spec's decision D9): two words with the same opcode field run alike. -/
def Obligations.IgnoredOperandChangesNothing : Prop :=
  ∀ (u w : Word) (s : State),
    u.extractLsb' 0 8 = w.extractLsb' 0 8 → (decode u).operandUse = .ignored →
      exec (decode w) s = exec (decode u) s

/-! ### Loads and stores -/

/-- LOAD_VALUE puts the zero-extended operand into AC and changes nothing else (the spec's decision D3). -/
def Obligations.LoadValueZeroExtends : Prop :=
  ∀ (o : Operand) (s : State),
    ∃ t, exec (.loadValue o) s = .next t ∧ t.ac.toNat = o.toNat ∧ t = { s with ac := t.ac }

/-- LOAD_ADDR (R80): opcode 2, AC gets the word at the operand's address; outside memory it is a MemoryFault and AC is
unchanged. -/
def Obligations.LoadAddrReadsAbsoluteAddress : Prop :=
  (∀ w : Word, w.extractLsb' 0 8 = 2#8 → decode w = .loadAddr (w.extractLsb' 8 24)) ∧
  ∀ (o : Operand) (s : State),
    (o.toNat < s.config.length →
      exec (.loadAddr o) s = .next { s with ac := s.mem.read o.toNat }) ∧
    (s.config.length ≤ o.toNat →
      exec (.loadAddr o) s = .next { s with run := .faulted, fault := some { addr := o.setWidth 32, kind := .read } })

/-- LOAD_IND_ADDR (R81): opcode 3, the pointer is the whole word at the operand's address and AC gets the word it
points at; the first access outside memory is the MemoryFault, and AC is then unchanged. -/
def Obligations.LoadIndAddrFollowsPointer : Prop :=
  (∀ w : Word, w.extractLsb' 0 8 = 3#8 → decode w = .loadIndAddr (w.extractLsb' 8 24)) ∧
  ∀ (o : Operand) (s : State),
    (s.config.length ≤ o.toNat →
      exec (.loadIndAddr o) s =
        .next { s with run := .faulted, fault := some { addr := o.setWidth 32, kind := .read } }) ∧
    (o.toNat < s.config.length → ∀ p : Word, p = s.mem.read o.toNat →
      (p.toNat < s.config.length →
        exec (.loadIndAddr o) s = .next { s with ac := s.mem.read p.toNat }) ∧
      (s.config.length ≤ p.toNat →
        exec (.loadIndAddr o) s = .next { s with run := .faulted, fault := some { addr := p, kind := .read } }))

/-- LOAD_IDX_X and LOAD_IDX_Y read at the sum modulo 2^32 of the operand and the index register (the spec's decision
D6): in memory AC gets the word there, outside it the sum is the address of the MemoryFault. -/
def Obligations.LoadIndexedReadsModularSum : Prop :=
  ∀ (o : Operand) (s : State) (a : Word),
    (a.toNat = (o.toNat + s.x.toNat) % 2 ^ 32 →
      (a.toNat < s.config.length → exec (.loadIdxX o) s = .next { s with ac := s.mem.read a.toNat }) ∧
      (s.config.length ≤ a.toNat →
        exec (.loadIdxX o) s = .next { s with run := .faulted, fault := some { addr := a, kind := .read } })) ∧
    (a.toNat = (o.toNat + s.y.toNat) % 2 ^ 32 →
      (a.toNat < s.config.length → exec (.loadIdxY o) s = .next { s with ac := s.mem.read a.toNat }) ∧
      (s.config.length ≤ a.toNat →
        exec (.loadIdxY o) s = .next { s with run := .faulted, fault := some { addr := a, kind := .read } }))

/-- LOAD_SP_X reads at `SP + X` modulo 2^32 (the spec's decision D6), SP and X unchanged. -/
def Obligations.LoadSpXReadsInsideStack : Prop :=
  ∀ (o : Operand) (s : State) (a : Word), a.toNat = (s.sp.toNat + s.x.toNat) % 2 ^ 32 →
    (a.toNat < s.config.length → exec (.loadSpX o) s = .next { s with ac := s.mem.read a.toNat }) ∧
    (s.config.length ≤ a.toNat →
      exec (.loadSpX o) s = .next { s with run := .faulted, fault := some { addr := a, kind := .read } })

/-- A negative index reaches below the base: for a base below 2^31 and a memory of at most 2^31 words the effective
address is in memory exactly when the mathematical sum of the base and the signed index is, and is then that sum
(20_memory.md section 2, the spec's decision D6). -/
def Obligations.NegativeIndexReachesBelowBase : Prop :=
  ∀ (base index : Word) (n : Nat), base.toNat < 2 ^ 31 → n ≤ 2 ^ 31 →
    ((effectiveAddress base index).toNat < n ↔
      0 ≤ (base.toNat : Int) + signed32 index ∧ (base.toNat : Int) + signed32 index < n) ∧
    ((effectiveAddress base index).toNat < n →
      ((effectiveAddress base index).toNat : Int) = base.toNat + signed32 index)

/-- STORE_ADDR (R85): opcode 7, the cell at the operand's address becomes AC, every other cell and every register
stays; outside memory it is a MemoryFault and no cell changes. -/
def Obligations.StoreAddrWritesOneCell : Prop :=
  (∀ w : Word, w.extractLsb' 0 8 = 7#8 → decode w = .storeAddr (w.extractLsb' 8 24)) ∧
  ∀ (o : Operand) (s : State), s.mem.wf = true →
    (o.toNat < s.config.length →
      ∃ t, exec (.storeAddr o) s = .next t ∧ t.mem.read o.toNat = s.ac ∧
        (∀ a, a ≠ o.toNat → t.mem.read a = s.mem.read a) ∧ t = { s with mem := t.mem }) ∧
    (s.config.length ≤ o.toNat →
      exec (.storeAddr o) s = .next { s with run := .faulted, fault := some { addr := o.setWidth 32, kind := .write } })

/-- A store is seen by the very next fetch: when STORE_ADDR writes the cell the PC names, the next step runs the word
stored (20_memory.md section 7, the spec's decision D21). -/
def Obligations.NextFetchSeesStore : Prop :=
  ∀ (o : Operand) (s : State), s.mem.wf = true → s.run = .running → s.pc.toNat < s.config.length →
    o.toNat = s.pc.toNat →
      ∃ t, exec (.storeAddr o) s = .next t ∧
        step t = exec (decode s.ac) { t with ir := s.ac, pc := s.pc + 1#32 }

/-- The access primitives check the address against LENGTH, unsigned and unwrapped: a data read gives the cell, a data
write changes that cell and no other, and outside memory both raise and nothing is written; the fetch read reports
out-of-bounds instead (R42, R43, and R41's reads). -/
def Obligations.AccessPrimitivesCheckLength : Prop :=
  ∀ (s : State) (a w : Word),
    (a.toNat < s.config.length →
      memRead s a = .ok (s.mem.read a.toNat) ∧ fetchRead s a = some (s.mem.read a.toNat) ∧
      (s.mem.wf = true → ∃ t, memWrite s a w = .ok t ∧ t.mem.read a.toNat = w ∧
        (∀ b, b ≠ a.toNat → t.mem.read b = s.mem.read b) ∧ t = { s with mem := t.mem })) ∧
    (s.config.length ≤ a.toNat →
      memRead s a = .error { addr := a, kind := .read } ∧ memWrite s a w = .error { addr := a, kind := .write } ∧
      fetchRead s a = none)

/-! ### Random value and output -/

/-- RAND leaves an integer from 0 to 100 in AC, whatever the random source answered, and changes nothing else; the
count of draws is the model's own (log entry 2; the spec's decision D12). -/
def Obligations.RandLoadsAtMostHundred : Prop :=
  ∀ (o : Operand) (s : State),
    ∃ t, exec (.rand o) s = .next t ∧ t.ac.toNat ≤ 100 ∧ t = { s with ac := t.ac, draws := s.draws + 1 }

/-- PUT_PORT hands AC to port 1 or port 2 as one event after those before it, and does nothing for every other operand;
all 24 operand bits are compared (the spec's decisions D10 and D11). -/
def Obligations.PutPortEmitsOneEvent : Prop :=
  ∀ (o : Operand) (s : State),
    (o.toNat = 1 →
      exec (.putPort o) s = .next { s with output := s.output ++ [{ port := .decimal, data := s.ac }] }) ∧
    (o.toNat = 2 →
      exec (.putPort o) s = .next { s with output := s.output ++ [{ port := .character, data := s.ac }] }) ∧
    (o.toNat ≠ 1 → o.toNat ≠ 2 → exec (.putPort o) s = .next s)

/-- Only a PUT_PORT to port 1 or 2 adds an event, and events already handed over stay, in their order (20_memory.md
section 6). -/
def Obligations.OutputOnlyGrowsByPutPort : Prop :=
  ∀ (i : Instr) (s t : State), exec i s = .next t →
    ((∃ o : Operand, i = .putPort o ∧ (o.toNat = 1 ∨ o.toNat = 2)) →
      ∃ p, t.output = s.output ++ [{ port := p, data := s.ac }]) ∧
    ((∀ o : Operand, i = .putPort o → o.toNat ≠ 1 ∧ o.toNat ≠ 2) → t.output = s.output)

/-! ### Arithmetic -/

/-- ADDX and ADDY leave the sum modulo 2^32 in AC and change nothing else (the spec's decision D5). -/
def Obligations.AddWrapsModulo32 : Prop :=
  ∀ (o : Operand) (s : State),
    (∃ t, exec (.addx o) s = .next t ∧ t.ac.toNat = (s.ac.toNat + s.x.toNat) % 2 ^ 32 ∧ t = { s with ac := t.ac }) ∧
    (∃ t, exec (.addy o) s = .next t ∧ t.ac.toNat = (s.ac.toNat + s.y.toNat) % 2 ^ 32 ∧ t = { s with ac := t.ac })

/-- SUBX and SUBY leave the difference modulo 2^32 in AC and change nothing else (the spec's decision D5). -/
def Obligations.SubtractWrapsModulo32 : Prop :=
  ∀ (o : Operand) (s : State),
    (∃ t, exec (.subx o) s = .next t ∧ (t.ac.toNat : Int) = ((s.ac.toNat : Int) - s.x.toNat) % 2 ^ 32 ∧
      t = { s with ac := t.ac }) ∧
    (∃ t, exec (.suby o) s = .next t ∧ (t.ac.toNat : Int) = ((s.ac.toNat : Int) - s.y.toNat) % 2 ^ 32 ∧
      t = { s with ac := t.ac })

/-- INCX and DECX step X by one modulo 2^32 and change nothing else (the spec's decision D5). -/
def Obligations.IncrementDecrementWrap : Prop :=
  ∀ (o : Operand) (s : State),
    (∃ t, exec (.incx o) s = .next t ∧ (t.x.toNat : Int) = ((s.x.toNat : Int) + 1) % 2 ^ 32 ∧ t = { s with x := t.x }) ∧
    (∃ t, exec (.decx o) s = .next t ∧ (t.x.toNat : Int) = ((s.x.toNat : Int) - 1) % 2 ^ 32 ∧ t = { s with x := t.x })

/-- SUBX followed by JUMP_IF_EQUAL is the equality test of AC and X: the jump is taken exactly when they were equal
(43_arithmetic.md, 45_control_transfer.md; 90_conflicts.md C7). -/
def Obligations.SubxThenJumpIfEqualTestsEquality : Prop :=
  ∀ (o p : Operand) (s : State),
    ∃ t u, exec (.subx o) s = .next t ∧ exec (.jumpIfEqual p) t = .next u ∧
      (s.ac = s.x → u.pc.toNat = p.toNat) ∧ (s.ac ≠ s.x → u.pc = s.pc)

/-! ### Register transfers -/

/-- COPY_TO_X and COPY_TO_Y (R95, R97): opcodes 14 and 16, the whole word of AC; COPY_TO_Y is the only instruction that
writes Y. -/
def Obligations.CopyToIndexRegisters : Prop :=
  (∀ w : Word, w.extractLsb' 0 8 = 14#8 → decode w = .copyToX (w.extractLsb' 8 24)) ∧
  (∀ w : Word, w.extractLsb' 0 8 = 16#8 → decode w = .copyToY (w.extractLsb' 8 24)) ∧
  (∀ (o : Operand) (s : State),
    exec (.copyToX o) s = .next { s with x := s.ac } ∧ exec (.copyToY o) s = .next { s with y := s.ac }) ∧
  (∀ (i : Instr) (s t : State), exec i s = .next t → t.y ≠ s.y → ∃ o, i = .copyToY o)

/-- COPY_FROM_X and COPY_FROM_Y (R96, R98): opcodes 15 and 17, the whole word into AC. -/
def Obligations.CopyFromIndexRegisters : Prop :=
  (∀ w : Word, w.extractLsb' 0 8 = 15#8 → decode w = .copyFromX (w.extractLsb' 8 24)) ∧
  (∀ w : Word, w.extractLsb' 0 8 = 17#8 → decode w = .copyFromY (w.extractLsb' 8 24)) ∧
  (∀ (o : Operand) (s : State),
    exec (.copyFromX o) s = .next { s with ac := s.x } ∧ exec (.copyFromY o) s = .next { s with ac := s.y })

/-- COPY_TO_SP (44_register_transfer.md): opcode 18, any word of AC goes to SP unchecked. With `AC = 0` the next PUSH or
CALL faults at 0xFFFFFFFF; with `AC > LENGTH` the next POP or RET faults, and the next LOAD_SP_X does for an X that keeps
the sum in 32 bits. That the faulting instruction leaves every register as it was, SP too, is the spec's decision D14
(log entry 8). -/
def Obligations.CopyToSpIsUnchecked : Prop :=
  (∀ w : Word, w.extractLsb' 0 8 = 18#8 → decode w = .copyToSp (w.extractLsb' 8 24)) ∧
  ∀ (o p : Operand) (s : State),
    ∃ t, exec (.copyToSp o) s = .next t ∧ t = { s with sp := s.ac } ∧
      (s.config.wf = true → s.ac = 0#32 →
        exec (.push p) t =
          .next { t with run := .faulted, fault := some { addr := 0xFFFFFFFF#32, kind := .write } } ∧
        exec (.call p) t =
          .next { t with run := .faulted, fault := some { addr := 0xFFFFFFFF#32, kind := .write } }) ∧
      (s.config.length < s.ac.toNat →
        exec (.pop p) t = .next { t with run := .faulted, fault := some { addr := s.ac, kind := .read } } ∧
        exec (.ret p) t = .next { t with run := .faulted, fault := some { addr := s.ac, kind := .read } } ∧
        (s.ac.toNat + s.x.toNat < 2 ^ 32 →
          exec (.loadSpX p) t =
            .next { t with run := .faulted, fault := some { addr := s.ac + s.x, kind := .read } }))

/-- COPY_FROM_SP (R100): opcode 19, AC gets SP; right after reset that is LENGTH, 2000 by default. -/
def Obligations.CopyFromSpReadsStackPointer : Prop :=
  (∀ w : Word, w.extractLsb' 0 8 = 19#8 → decode w = .copyFromSp (w.extractLsb' 8 24)) ∧
  (∀ (o : Operand) (s : State), exec (.copyFromSp o) s = .next { s with ac := s.sp }) ∧
  (∀ (o : Operand) (c : Config), c.wf = true →
    ∃ t, exec (.copyFromSp o) (State.resetWith c) = .next t ∧ t.ac.toNat = c.length) ∧
  (∀ o : Operand, ∃ t, exec (.copyFromSp o) State.reset = .next t ∧ t.ac = 2000#32)

/-! ### Control transfer -/

/-- JUMP (R102): opcode 20, PC gets the zero-extended operand; a target at or above LENGTH halts the run at the next
fetch, not here; `JUMP a` at address `a` is a loop that never ends. -/
def Obligations.JumpSetsPcAndMayLoopForever : Prop :=
  (∀ w : Word, w.extractLsb' 0 8 = 20#8 → decode w = .jump (w.extractLsb' 8 24)) ∧
  (∀ (o : Operand) (s : State),
    ∃ t, exec (.jump o) s = .next t ∧ t.pc.toNat = o.toNat ∧ t = { s with pc := t.pc } ∧
      (s.run = .running → s.config.length ≤ o.toNat → ∃ u, step t = .next u ∧ u.run = .halted ∧ u.fault = s.fault)) ∧
  (∀ (s : State) (n : Nat), s.run = .running → s.pc.toNat < s.config.length →
    (s.mem.read s.pc.toNat).toNat = s.pc.toNat * 256 + 20 →
      ∃ t, core.run n s = .next t ∧ State.run t = .running ∧ State.pc t = s.pc)

/-- JUMP_IF_EQUAL and JUMP_IF_NOT_EQUAL (R103, R104): opcodes 21 and 22; the test is of all 32 bits of AC against 0, and
with the same AC exactly one of them is taken; not taken, PC stays. -/
def Obligations.ConditionalJumpsTestAccumulator : Prop :=
  (∀ w : Word, w.extractLsb' 0 8 = 21#8 → decode w = .jumpIfEqual (w.extractLsb' 8 24)) ∧
  (∀ w : Word, w.extractLsb' 0 8 = 22#8 → decode w = .jumpIfNotEqual (w.extractLsb' 8 24)) ∧
  (∀ (o : Operand) (s : State),
    (s.ac.toNat = 0 →
      exec (.jumpIfEqual o) s = .next { s with pc := o.setWidth 32 } ∧ exec (.jumpIfNotEqual o) s = .next s) ∧
    (s.ac.toNat ≠ 0 →
      exec (.jumpIfEqual o) s = .next s ∧ exec (.jumpIfNotEqual o) s = .next { s with pc := o.setWidth 32 }))

/-- CALL stores the already advanced PC one cell below SP, moves SP there and jumps; with SP 0 or above LENGTH it is a
MemoryFault that writes nothing (the spec's decision D14). -/
def Obligations.CallPushesReturnAddress : Prop :=
  ∀ (o : Operand) (s : State), s.mem.wf = true →
    (1 ≤ s.sp.toNat → s.sp.toNat ≤ s.config.length →
      ∃ t, exec (.call o) s = .next t ∧ t.mem.read (s.sp - 1#32).toNat = s.pc ∧
        (∀ a, a ≠ (s.sp - 1#32).toNat → t.mem.read a = s.mem.read a) ∧
        t = { s with sp := s.sp - 1#32, pc := o.setWidth 32, mem := t.mem }) ∧
    (s.config.wf = true → s.sp.toNat = 0 ∨ s.config.length < s.sp.toNat →
      exec (.call o) s = .next { s with run := .faulted, fault := some { addr := s.sp - 1#32, kind := .write } })

/-- RET (R106): opcode 24, PC gets the word at SP and SP goes up by one; the cell keeps its value; a popped word not
below LENGTH halts the run at the next fetch; with SP not below LENGTH it is a MemoryFault and SP and PC are unchanged. -/
def Obligations.RetPopsReturnAddress : Prop :=
  (∀ w : Word, w.extractLsb' 0 8 = 24#8 → decode w = .ret (w.extractLsb' 8 24)) ∧
  ∀ (o : Operand) (s : State),
    (s.sp.toNat < s.config.length →
      ∃ t, exec (.ret o) s = .next t ∧ t = { s with pc := s.mem.read s.sp.toNat, sp := s.sp + 1#32 } ∧
        (s.run = .running → s.config.length ≤ (s.mem.read s.sp.toNat).toNat →
          ∃ u, step t = .next u ∧ u.run = .halted ∧ u.fault = s.fault)) ∧
    (s.config.length ≤ s.sp.toNat →
      exec (.ret o) s = .next { s with run := .faulted, fault := some { addr := s.sp, kind := .read } })

/-- A CALL followed at once by a RET goes on at the word after the CALL, with SP as it was and every register else (the
source's return-address law, 95_test_vectors.md L1-3). -/
def Obligations.CallThenRetReturns : Prop :=
  ∀ (o p : Operand) (s : State), s.mem.wf = true → 1 ≤ s.sp.toNat → s.sp.toNat ≤ s.config.length →
    ∃ t u, exec (.call o) s = .next t ∧ exec (.ret p) t = .next u ∧ u = { s with mem := u.mem }

/-- IRET with this hardware's slots (`LENGTH - 1` and `LENGTH`): always a MemoryFault at address LENGTH, a read, and
nothing is written (the spec's decision D13, 90_conflicts.md C2). -/
def Obligations.IretFaultsWithHardwareSlots : Prop :=
  ∀ (o : Operand) (s : State), s.config.wf = true →
    s.config.iretPcAddr.toNat = s.config.length - 1 → s.config.iretSpAddr.toNat = s.config.length →
    ∃ r : FaultRecord, r.addr.toNat = s.config.length ∧ r.kind = .read ∧
      exec (.iret o) s = .next { s with run := .faulted, fault := some r }

/-- IRET with slot addresses that are both in memory, a departure from the source (log entry 3), takes PC from the one
and SP from the other and changes nothing else (the spec's decision D13). -/
def Obligations.IretRestoresFromSlotsInMemory : Prop :=
  ∀ (o : Operand) (s : State),
    s.config.iretPcAddr.toNat < s.config.length → s.config.iretSpAddr.toNat < s.config.length →
      exec (.iret o) s =
        .next { s with pc := s.mem.read s.config.iretPcAddr.toNat, sp := s.mem.read s.config.iretSpAddr.toNat }

/-- END (R108): opcode 50, the run state becomes Halted, nothing else changes, and the run then ends: no step follows. -/
def Obligations.EndHaltsTheRun : Prop :=
  (∀ w : Word, w.extractLsb' 0 8 = 50#8 → decode w = .endRun (w.extractLsb' 8 24)) ∧
  ∀ (o : Operand) (s : State),
    ∃ t, exec (.endRun o) s = .next t ∧ t = { s with run := .halted } ∧ step t = .fault .runHalted

/-- The execute phase of the no-op of the unassigned opcodes changes nothing (30_encoding.md section 4, the spec's
decision D8). -/
def Obligations.NoOpChangesNothing : Prop :=
  ∀ (op : Opcode) (o : Operand) (s : State), exec (.nopUnassigned op o) s = .next s

/-- The PC after an execute phase that does not fault, for every instruction: the next-PC table of 40_fetch_decode.md,
written as `nextPc`. -/
def Obligations.NextPcFollowsTable : Prop :=
  ∀ (i : Instr) (s : State), failingAccess i s = none → ∃ t, exec i s = .next t ∧ t.pc = nextPc i s

/-! ### The stack -/

/-- PUSH stores AC one cell below SP and moves SP there; with SP 0 or above LENGTH it is a MemoryFault that writes
nothing (the spec's decision D14). -/
def Obligations.PushStoresAccumulator : Prop :=
  ∀ (o : Operand) (s : State), s.mem.wf = true →
    (1 ≤ s.sp.toNat → s.sp.toNat ≤ s.config.length →
      ∃ t, exec (.push o) s = .next t ∧ t.mem.read (s.sp - 1#32).toNat = s.ac ∧
        (∀ a, a ≠ (s.sp - 1#32).toNat → t.mem.read a = s.mem.read a) ∧
        t = { s with sp := s.sp - 1#32, mem := t.mem }) ∧
    (s.config.wf = true → s.sp.toNat = 0 ∨ s.config.length < s.sp.toNat →
      exec (.push o) s = .next { s with run := .faulted, fault := some { addr := s.sp - 1#32, kind := .write } })

/-- POP (R112): opcode 28, AC gets the word at SP and SP goes up by one; the cell keeps its value; with SP not below
LENGTH it is a MemoryFault and AC and SP are unchanged. -/
def Obligations.PopLoadsTopOfStack : Prop :=
  (∀ w : Word, w.extractLsb' 0 8 = 28#8 → decode w = .pop (w.extractLsb' 8 24)) ∧
  ∀ (o : Operand) (s : State),
    (s.sp.toNat < s.config.length →
      exec (.pop o) s = .next { s with ac := s.mem.read s.sp.toNat, sp := s.sp + 1#32 }) ∧
    (s.config.length ≤ s.sp.toNat →
      exec (.pop o) s = .next { s with run := .faulted, fault := some { addr := s.sp, kind := .read } })

/-- A PUSH and then a POP, with anything done to AC between, bring back AC and SP as they were before the PUSH (the
source's stack balance law, 95_test_vectors.md L1-2). -/
def Obligations.PushThenPopRestores : Prop :=
  ∀ (o p : Operand) (w : Word) (s : State), s.mem.wf = true → 1 ≤ s.sp.toNat → s.sp.toNat ≤ s.config.length →
    ∃ t u, exec (.push o) s = .next t ∧ exec (.pop p) { t with ac := w } = .next u ∧ u = { s with mem := u.mem }

/-- The stack instructions check the address they access and not SP (46_stack.md, stack bounds): a push or CALL faults exactly when the cell
below SP is not in memory, so with `SP = 0` at 0xFFFFFFFF; a POP or RET exactly when SP is not below LENGTH, so with
`SP = LENGTH` at LENGTH; LOAD_SP_X exactly when `SP + X` is not below LENGTH; every store and load past `LENGTH - 1`
faults. That the faulting instruction leaves every register as it was, SP too, is the spec's decision D14 (log entry 8);
that the sums of LOAD_SP_X, LOAD_IDX_X and LOAD_IDX_Y are modulo 2^32 is its decision D6. -/
def Obligations.StackBoundsAreTheMemoryBounds : Prop :=
  ∀ (o : Operand) (s : State), s.config.wf = true →
    (s.sp = 0#32 → s.sp - 1#32 = 0xFFFFFFFF#32 ∧ s.config.length ≤ (s.sp - 1#32).toNat) ∧
    (s.config.length ≤ (s.sp - 1#32).toNat →
      exec (.push o) s = .next { s with run := .faulted, fault := some { addr := s.sp - 1#32, kind := .write } } ∧
      exec (.call o) s = .next { s with run := .faulted, fault := some { addr := s.sp - 1#32, kind := .write } }) ∧
    ((s.sp - 1#32).toNat < s.config.length →
      (∃ t, exec (.push o) s = .next t ∧ t.run = s.run ∧ t.fault = s.fault) ∧
      (∃ t, exec (.call o) s = .next t ∧ t.run = s.run ∧ t.fault = s.fault)) ∧
    (s.config.length ≤ s.sp.toNat →
      exec (.pop o) s = .next { s with run := .faulted, fault := some { addr := s.sp, kind := .read } } ∧
      exec (.ret o) s = .next { s with run := .faulted, fault := some { addr := s.sp, kind := .read } }) ∧
    (s.sp.toNat < s.config.length →
      (∃ t, exec (.pop o) s = .next t ∧ t.run = s.run ∧ t.fault = s.fault) ∧
      (∃ t, exec (.ret o) s = .next t ∧ t.run = s.run ∧ t.fault = s.fault)) ∧
    (s.config.length ≤ (s.sp + s.x).toNat →
      exec (.loadSpX o) s = .next { s with run := .faulted, fault := some { addr := s.sp + s.x, kind := .read } }) ∧
    ((s.sp + s.x).toNat < s.config.length → ∃ t, exec (.loadSpX o) s = .next t ∧ t.run = s.run ∧ t.fault = s.fault) ∧
    (s.config.length ≤ o.toNat →
      exec (.storeAddr o) s = .next { s with run := .faulted, fault := some { addr := o.setWidth 32, kind := .write } } ∧
      exec (.loadAddr o) s = .next { s with run := .faulted, fault := some { addr := o.setWidth 32, kind := .read } } ∧
      exec (.loadIndAddr o) s = .next { s with run := .faulted, fault := some { addr := o.setWidth 32, kind := .read } }) ∧
    (o.toNat < s.config.length → s.config.length ≤ (s.mem.read o.toNat).toNat →
      exec (.loadIndAddr o) s =
        .next { s with run := .faulted, fault := some { addr := s.mem.read o.toNat, kind := .read } }) ∧
    (s.config.length ≤ (o.setWidth 32 + s.x).toNat →
      exec (.loadIdxX o) s =
        .next { s with run := .faulted, fault := some { addr := o.setWidth 32 + s.x, kind := .read } }) ∧
    (s.config.length ≤ (o.setWidth 32 + s.y).toNat →
      exec (.loadIdxY o) s =
        .next { s with run := .faulted, fault := some { addr := o.setWidth 32 + s.y, kind := .read } })

/-! ### MemoryFault and frames, over all instructions -/

/-- The table of MemoryFault causes (60_exceptions.md section 1), over every instruction: where the table names a failing
access the instruction takes the MemoryFault with that address and kind and commits nothing of its own (the spec's
decisions D14 and D16), and where it names none the instruction completes with no new fault, stopping the run only if it
is END. -/
def Obligations.MemoryFaultsAreExactlyTheTable : Prop :=
  ∀ (i : Instr) (s : State),
    (∀ r, failingAccess i s = some r → exec i s = .next { s with run := .faulted, fault := some r }) ∧
    (failingAccess i s = none → ∃ t, exec i s = .next t ∧ t.fault = s.fault ∧
      ((∃ o, i = .endRun o) → t.run = .halted) ∧ ((∀ o, i ≠ .endRun o) → t.run = s.run))

/-- The register frame of every instruction, against the writer lists of 10_state.md: a register changes only under an
instruction listed as writing it; V, IR and the parameters change under none. -/
def Obligations.RegistersChangeOnlyUnderTheirWriters : Prop :=
  ∀ (i : Instr) (s t : State), exec i s = .next t →
    (mayWriteAc i = false → t.ac = s.ac) ∧ (mayWriteX i = false → t.x = s.x) ∧
    (mayWriteY i = false → t.y = s.y) ∧ (mayWriteSp i = false → t.sp = s.sp) ∧
    (mayWritePc i = false → t.pc = s.pc) ∧ t.v = s.v ∧ t.ir = s.ir ∧ t.config = s.config

/-- The memory frame of every instruction: every cell but the one stored to reads as before, where the address stored to
is the operand for STORE_ADDR and one below SP for PUSH and CALL, and no other instruction stores. -/
def Obligations.MemoryChangesOnlyAtStoredAddress : Prop :=
  ∀ (i : Instr) (s t : State), exec i s = .next t →
    ∀ a, storedAddress i s ≠ some a → t.mem.read a = s.mem.read a

/-- Apart from RAND no instruction's effect depends on the random source (the source's determinism statement,
70_reset_and_hazards.md section 3). -/
def Obligations.OnlyRandDependsOnTheRandomSource : Prop :=
  ∀ (i : Instr) (s t : State) (n : Nat), (∀ o, i ≠ .rand o) → exec i s = .next t →
    t.draws = s.draws ∧ exec i { s with draws := n } = .next { t with draws := n }

/-- No instruction reads V or the output already handed over: with other values there, it does the same to everything
else (10_state.md sections 1 and 2). -/
def Obligations.ReservedRegisterAndOutputAreNotRead : Prop :=
  ∀ (i : Instr) (s t : State) (w : Word) (es : List OutEvent), exec i s = .next t →
    exec i { s with v := w, output := es } =
      .next { t with v := w, output := es ++ t.output.drop s.output.length }

/-! ### The step, the run and the host -/

/-- A step in Running whose PC names a cell runs the instruction that cell's word decodes to, after the fetch phase: IR is
the word and PC the next address (R73). -/
def Obligations.StepRunsDecodedInstruction : Prop :=
  ∀ (s : State) (w : Word) (i : Instr), s.run = .running → s.pc.toNat < s.config.length →
    w = s.mem.read s.pc.toNat → decode w = i →
      step s = exec i { s with ir := w, pc := s.pc + 1#32 }

/-- A step in Running whose PC is not below LENGTH halts the run and does nothing else: PC and IR stay and no fault is
recorded (40_fetch_decode.md, the spec's decision D15). -/
def Obligations.FetchOutsideMemoryHalts : Prop :=
  ∀ s : State, s.run = .running → s.config.length ≤ s.pc.toNat → step s = .next { s with run := .halted }

/-- The increment of a fetch never wraps: with legal parameters it leaves PC at most LENGTH (40_fetch_decode.md, the
spec's decisions D5 and D7). -/
def Obligations.FetchIncrementNeverWraps : Prop :=
  ∀ (s : State) (w : Word), s.config.wf = true → s.pc.toNat < s.config.length →
    (s.fetched w).pc.toNat = s.pc.toNat + 1 ∧ (s.fetched w).pc.toNat ≤ s.config.length

/-- Halted and Faulted have no successor (the spec's decision D23), and `run()` moves Idle to Running and does nothing in
any other run state; that a step taken in Idle is the host's `run()` is the model's convention (log entry 6). -/
def Obligations.RunStateGatesTheStep : Prop :=
  ∀ s : State,
    (s.run = .halted → step s = .fault .runHalted ∧ hostRun s = s) ∧
    (s.run = .faulted → step s = .fault (.runFaulted s.fault) ∧ hostRun s = s) ∧
    (s.run = .running → hostRun s = s) ∧
    (s.run = .idle → hostRun s = { s with run := .running } ∧ step s = .next (hostRun s))

/-- The host's load: in Idle an image of at most LENGTH words is copied to addresses 0 upward and every other cell stays;
a longer image, and a load outside Idle, are refused (70_reset_and_hazards.md section 2, the spec's decision D23). -/
def Obligations.LoadCopiesImageFromZero : Prop :=
  ∀ (ws : List Word) (s : State), s.mem.wf = true →
    (s.run = .idle → ws.length ≤ s.config.length →
      ∃ t, hostLoad ws s = .next t ∧ (∀ (k : Nat) (h : k < ws.length), t.mem.read k = ws[k]) ∧
        (∀ a, ws.length ≤ a → t.mem.read a = s.mem.read a) ∧ t = { s with mem := t.mem }) ∧
    (s.run = .idle → s.config.length < ws.length → hostLoad ws s = .refused .imageTooLong) ∧
    (s.run ≠ .idle → hostLoad ws s = .refused .loadOutsideIdle)

/-- Memory at reset (R132): every cell is 0, a cell the load does not cover stays 0, and such a cell runs as a no-op if
fetched and reads as 0 if loaded. -/
def Obligations.UncoveredCellsStayZero : Prop :=
  ∀ (c : Config) (ws : List Word) (a : Nat), ws.length ≤ c.length →
    (State.resetWith c).mem.read a = 0#32 ∧
    ∃ t, hostLoad ws (State.resetWith c) = .next t ∧
      (ws.length ≤ a →
        t.mem.read a = 0#32 ∧
        (∀ s : State, s.run = .running → s.mem = t.mem → s.pc.toNat = a → a < s.config.length →
          step s = .next { s with ir := 0#32, pc := s.pc + 1#32 }) ∧
        (∀ (o : Operand) (s : State), s.mem = t.mem → o.toNat = a → a < s.config.length →
          exec (.loadAddr o) s = .next { s with ac := 0#32 }))

/-- Reset (10_state.md section 4): every register 0 but `SP = LENGTH`, run state Idle, halt flag false, no fault record (the
spec's decision D16), no output; the default LENGTH is 2000. -/
def Obligations.ResetLeavesStatedValues : Prop :=
  (∀ c : Config, c.wf = true → ∀ s : State, s = State.resetWith c →
    s.ac = 0#32 ∧ s.x = 0#32 ∧ s.y = 0#32 ∧ s.v = 0#32 ∧ s.ir = 0#32 ∧ s.pc = 0#32 ∧ s.sp.toNat = c.length ∧
    s.run = .idle ∧ haltFlag s = false ∧ s.fault = none ∧ s.output = []) ∧
  State.reset.config.length = 2000 ∧ State.reset = State.resetWith State.reset.config

/-- From any running state whose cells from PC upward are all 0, the run walks to the end of memory over no-ops and
halts there with PC at LENGTH and no fault: after `LENGTH - PC + 1` steps nothing but IR, PC and the run state has changed
(60_exceptions.md section 1: a program that runs past its last word). -/
def Obligations.RunPastLastWordHaltsAtLength : Prop :=
  ∀ s : State, s.config.wf = true → s.run = .running → s.pc.toNat ≤ s.config.length →
    (∀ a, s.pc.toNat ≤ a → a < s.config.length → s.mem.read a = 0#32) →
      core.run (s.config.length - s.pc.toNat + 1) s =
        .next { s with
          run := .halted
          pc := BitVec.ofNat 32 s.config.length
          ir := if s.pc.toNat = s.config.length then s.ir else 0#32 }

/-- How a halted run stopped is told by IR: a step that halts a run ends with an END word in IR exactly when it fetched,
that is when PC named a cell; otherwise it is a FetchFault (60_exceptions.md section 1; 90_conflicts.md C10). -/
def Obligations.HaltCauseIsToldByIr : Prop :=
  ∀ s t : State, s.Inv → s.run = .running → step s = .next t → t.run = .halted →
    (s.pc.toNat < s.config.length → t.ir.extractLsb' 0 8 = 50#8 ∧ failureOf t = .none) ∧
    (s.config.length ≤ s.pc.toNat → t.ir.extractLsb' 0 8 ≠ 50#8 ∧ failureOf t = .fetchFault)

/-! ### Invariants -/

/-- The invariant of every run holds after reset, for every legal LENGTH, and so for the default. -/
def Obligations.ResetMeetsRunInvariant : Prop :=
  (∀ c : Config, c.wf = true → (State.resetWith c).Inv) ∧ State.reset.Inv

/-- Every step keeps the invariant: legal parameters, memory in its canonical form and within LENGTH, a fault record
exactly in Faulted, and no END word in IR while the run can go on. -/
def Obligations.StepKeepsRunInvariant : Prop :=
  ∀ s t : State, s.Inv → step s = .next t → t.Inv

/-- The host's load keeps the invariant, and so does `run()`. -/
def Obligations.HostActionsKeepRunInvariant : Prop :=
  ∀ s : State, s.Inv → (hostRun s).Inv ∧ ∀ ws t, hostLoad ws s = .next t → t.Inv

/-- No step changes V or the parameters, and none takes back output (10_state.md section 1). -/
def Obligations.ReservedRegisterAndParametersAreConstant : Prop :=
  ∀ s t : State, step s = .next t →
    t.v = s.v ∧ t.config = s.config ∧ ∃ es, t.output = s.output ++ es ∧ es.length ≤ 1

/-- Memories in canonical form that read alike at every address are equal data. -/
def Obligations.CanonicalMemoriesReadAlikeAreEqual : Prop :=
  ∀ m n : Memory, m.wf = true → n.wf = true → (∀ a, m.read a = n.read a) → m = n

/-- Debug tracing (60_exceptions.md section 3, the spec's decision D25) changes no behaviour: with it switched either way
a step answers the same next state, or stops in the same way, but for the switch itself. Off, the trace shows nothing;
on, it shows the registers after the fetch phase of each step of a running state that has an execute phase. -/
def Obligations.DebugTracingChangesNoStep : Prop :=
  (∀ (s : State) (b : Bool),
    (∃ t, step s = .next t ∧ step (s.withDebugTracing b) = .next (t.withDebugTracing b)) ∨
    (∃ f, step s = .fault f ∧ step (s.withDebugTracing b) = .fault f)) ∧
  ∀ s : State,
    debugTrace (s.withDebugTracing false) = none ∧
    (s.run = .running → s.pc.toNat < s.config.length →
      debugTrace (s.withDebugTracing true) =
        some { ac := s.ac, x := s.x, y := s.y, v := s.v, sp := s.sp, pc := s.pc + 1#32,
               ir := s.mem.read s.pc.toNat }) ∧
    ((s.run ≠ .running ∨ s.config.length ≤ s.pc.toNat) → debugTrace (s.withDebugTracing true) = none)
end

