-- ==== Sys2Proof/Laws/Decode.lean ====
section
/-! SUPPORT. The two fields of a word and the word of two fields (R58, R61). -/

namespace Sys2Proof

theorem opcodeOf_toNat (w : Word) : (opcodeOf w).toNat = w.toNat % 256 := by
  simp [opcodeOf, BitVec.extractLsb'_toNat]

theorem operandOf_toNat (w : Word) : (operandOf w).toNat = w.toNat / 256 := by
  simp only [operandOf, BitVec.extractLsb'_toNat, Nat.shiftRight_eq_div_pow]
  omega

theorem encodeFields_toNat (op : Opcode) (o : Operand) :
    (encodeFields op o).toNat = o.toNat * 256 + op.toNat := by
  simp only [encodeFields, BitVec.toNat_ofNat]
  omega

theorem opcodeOf_encodeFields (op : Opcode) (o : Operand) : opcodeOf (encodeFields op o) = op := by
  apply BitVec.eq_of_toNat_eq
  rw [opcodeOf_toNat, encodeFields_toNat]
  omega

theorem operandOf_encodeFields (op : Opcode) (o : Operand) : operandOf (encodeFields op o) = o := by
  apply BitVec.eq_of_toNat_eq
  rw [operandOf_toNat, encodeFields_toNat]
  omega

theorem encodeFields_fields (w : Word) : encodeFields (opcodeOf w) (operandOf w) = w := by
  apply BitVec.eq_of_toNat_eq
  rw [encodeFields_toNat, opcodeOf_toNat, operandOf_toNat]
  omega

end Sys2Proof
end

