-- ==== Sys2Proof/Laws/State.lean ====
section
/-! SUPPORT. What each update of the state does to each field. -/

namespace Sys2Proof.Machine

variable (s : State)

/-! ### State.setAc -/

@[simp] theorem State.setAc_ac (w : Word) : (s.setAc w).ac = w := rfl
@[simp] theorem State.setAc_x (w : Word) : (s.setAc w).x = s.x := rfl
@[simp] theorem State.setAc_y (w : Word) : (s.setAc w).y = s.y := rfl
@[simp] theorem State.setAc_v (w : Word) : (s.setAc w).v = s.v := rfl
@[simp] theorem State.setAc_sp (w : Word) : (s.setAc w).sp = s.sp := rfl
@[simp] theorem State.setAc_pc (w : Word) : (s.setAc w).pc = s.pc := rfl
@[simp] theorem State.setAc_ir (w : Word) : (s.setAc w).ir = s.ir := rfl
@[simp] theorem State.setAc_run (w : Word) : (s.setAc w).run = s.run := rfl
@[simp] theorem State.setAc_fault (w : Word) : (s.setAc w).fault = s.fault := rfl
@[simp] theorem State.setAc_mem (w : Word) : (s.setAc w).mem = s.mem := rfl
@[simp] theorem State.setAc_output (w : Word) : (s.setAc w).output = s.output := rfl
@[simp] theorem State.setAc_config (w : Word) : (s.setAc w).config = s.config := rfl
@[simp] theorem State.setAc_draws (w : Word) : (s.setAc w).draws = s.draws := rfl

/-! ### State.setX -/

@[simp] theorem State.setX_ac (w : Word) : (s.setX w).ac = s.ac := rfl
@[simp] theorem State.setX_x (w : Word) : (s.setX w).x = w := rfl
@[simp] theorem State.setX_y (w : Word) : (s.setX w).y = s.y := rfl
@[simp] theorem State.setX_v (w : Word) : (s.setX w).v = s.v := rfl
@[simp] theorem State.setX_sp (w : Word) : (s.setX w).sp = s.sp := rfl
@[simp] theorem State.setX_pc (w : Word) : (s.setX w).pc = s.pc := rfl
@[simp] theorem State.setX_ir (w : Word) : (s.setX w).ir = s.ir := rfl
@[simp] theorem State.setX_run (w : Word) : (s.setX w).run = s.run := rfl
@[simp] theorem State.setX_fault (w : Word) : (s.setX w).fault = s.fault := rfl
@[simp] theorem State.setX_mem (w : Word) : (s.setX w).mem = s.mem := rfl
@[simp] theorem State.setX_output (w : Word) : (s.setX w).output = s.output := rfl
@[simp] theorem State.setX_config (w : Word) : (s.setX w).config = s.config := rfl
@[simp] theorem State.setX_draws (w : Word) : (s.setX w).draws = s.draws := rfl

/-! ### State.setY -/

@[simp] theorem State.setY_ac (w : Word) : (s.setY w).ac = s.ac := rfl
@[simp] theorem State.setY_x (w : Word) : (s.setY w).x = s.x := rfl
@[simp] theorem State.setY_y (w : Word) : (s.setY w).y = w := rfl
@[simp] theorem State.setY_v (w : Word) : (s.setY w).v = s.v := rfl
@[simp] theorem State.setY_sp (w : Word) : (s.setY w).sp = s.sp := rfl
@[simp] theorem State.setY_pc (w : Word) : (s.setY w).pc = s.pc := rfl
@[simp] theorem State.setY_ir (w : Word) : (s.setY w).ir = s.ir := rfl
@[simp] theorem State.setY_run (w : Word) : (s.setY w).run = s.run := rfl
@[simp] theorem State.setY_fault (w : Word) : (s.setY w).fault = s.fault := rfl
@[simp] theorem State.setY_mem (w : Word) : (s.setY w).mem = s.mem := rfl
@[simp] theorem State.setY_output (w : Word) : (s.setY w).output = s.output := rfl
@[simp] theorem State.setY_config (w : Word) : (s.setY w).config = s.config := rfl
@[simp] theorem State.setY_draws (w : Word) : (s.setY w).draws = s.draws := rfl

/-! ### State.setSp -/

@[simp] theorem State.setSp_ac (w : Word) : (s.setSp w).ac = s.ac := rfl
@[simp] theorem State.setSp_x (w : Word) : (s.setSp w).x = s.x := rfl
@[simp] theorem State.setSp_y (w : Word) : (s.setSp w).y = s.y := rfl
@[simp] theorem State.setSp_v (w : Word) : (s.setSp w).v = s.v := rfl
@[simp] theorem State.setSp_sp (w : Word) : (s.setSp w).sp = w := rfl
@[simp] theorem State.setSp_pc (w : Word) : (s.setSp w).pc = s.pc := rfl
@[simp] theorem State.setSp_ir (w : Word) : (s.setSp w).ir = s.ir := rfl
@[simp] theorem State.setSp_run (w : Word) : (s.setSp w).run = s.run := rfl
@[simp] theorem State.setSp_fault (w : Word) : (s.setSp w).fault = s.fault := rfl
@[simp] theorem State.setSp_mem (w : Word) : (s.setSp w).mem = s.mem := rfl
@[simp] theorem State.setSp_output (w : Word) : (s.setSp w).output = s.output := rfl
@[simp] theorem State.setSp_config (w : Word) : (s.setSp w).config = s.config := rfl
@[simp] theorem State.setSp_draws (w : Word) : (s.setSp w).draws = s.draws := rfl

/-! ### State.setPc -/

@[simp] theorem State.setPc_ac (w : Word) : (s.setPc w).ac = s.ac := rfl
@[simp] theorem State.setPc_x (w : Word) : (s.setPc w).x = s.x := rfl
@[simp] theorem State.setPc_y (w : Word) : (s.setPc w).y = s.y := rfl
@[simp] theorem State.setPc_v (w : Word) : (s.setPc w).v = s.v := rfl
@[simp] theorem State.setPc_sp (w : Word) : (s.setPc w).sp = s.sp := rfl
@[simp] theorem State.setPc_pc (w : Word) : (s.setPc w).pc = w := rfl
@[simp] theorem State.setPc_ir (w : Word) : (s.setPc w).ir = s.ir := rfl
@[simp] theorem State.setPc_run (w : Word) : (s.setPc w).run = s.run := rfl
@[simp] theorem State.setPc_fault (w : Word) : (s.setPc w).fault = s.fault := rfl
@[simp] theorem State.setPc_mem (w : Word) : (s.setPc w).mem = s.mem := rfl
@[simp] theorem State.setPc_output (w : Word) : (s.setPc w).output = s.output := rfl
@[simp] theorem State.setPc_config (w : Word) : (s.setPc w).config = s.config := rfl
@[simp] theorem State.setPc_draws (w : Word) : (s.setPc w).draws = s.draws := rfl

/-! ### State.fetched -/

@[simp] theorem State.fetched_ac (w : Word) : (s.fetched w).ac = s.ac := rfl
@[simp] theorem State.fetched_x (w : Word) : (s.fetched w).x = s.x := rfl
@[simp] theorem State.fetched_y (w : Word) : (s.fetched w).y = s.y := rfl
@[simp] theorem State.fetched_v (w : Word) : (s.fetched w).v = s.v := rfl
@[simp] theorem State.fetched_sp (w : Word) : (s.fetched w).sp = s.sp := rfl
@[simp] theorem State.fetched_pc (w : Word) : (s.fetched w).pc = add32 s.pc 1#32 := rfl
@[simp] theorem State.fetched_ir (w : Word) : (s.fetched w).ir = w := rfl
@[simp] theorem State.fetched_run (w : Word) : (s.fetched w).run = s.run := rfl
@[simp] theorem State.fetched_fault (w : Word) : (s.fetched w).fault = s.fault := rfl
@[simp] theorem State.fetched_mem (w : Word) : (s.fetched w).mem = s.mem := rfl
@[simp] theorem State.fetched_output (w : Word) : (s.fetched w).output = s.output := rfl
@[simp] theorem State.fetched_config (w : Word) : (s.fetched w).config = s.config := rfl
@[simp] theorem State.fetched_draws (w : Word) : (s.fetched w).draws = s.draws := rfl

/-! ### State.halt -/

@[simp] theorem State.halt_ac : (s.halt).ac = s.ac := rfl
@[simp] theorem State.halt_x : (s.halt).x = s.x := rfl
@[simp] theorem State.halt_y : (s.halt).y = s.y := rfl
@[simp] theorem State.halt_v : (s.halt).v = s.v := rfl
@[simp] theorem State.halt_sp : (s.halt).sp = s.sp := rfl
@[simp] theorem State.halt_pc : (s.halt).pc = s.pc := rfl
@[simp] theorem State.halt_ir : (s.halt).ir = s.ir := rfl
@[simp] theorem State.halt_run : (s.halt).run = .halted := rfl
@[simp] theorem State.halt_fault : (s.halt).fault = s.fault := rfl
@[simp] theorem State.halt_mem : (s.halt).mem = s.mem := rfl
@[simp] theorem State.halt_output : (s.halt).output = s.output := rfl
@[simp] theorem State.halt_config : (s.halt).config = s.config := rfl
@[simp] theorem State.halt_draws : (s.halt).draws = s.draws := rfl

/-! ### State.raiseMemoryFault -/

@[simp] theorem State.raiseMemoryFault_ac (r : FaultRecord) : (s.raiseMemoryFault r).ac = s.ac := rfl
@[simp] theorem State.raiseMemoryFault_x (r : FaultRecord) : (s.raiseMemoryFault r).x = s.x := rfl
@[simp] theorem State.raiseMemoryFault_y (r : FaultRecord) : (s.raiseMemoryFault r).y = s.y := rfl
@[simp] theorem State.raiseMemoryFault_v (r : FaultRecord) : (s.raiseMemoryFault r).v = s.v := rfl
@[simp] theorem State.raiseMemoryFault_sp (r : FaultRecord) : (s.raiseMemoryFault r).sp = s.sp := rfl
@[simp] theorem State.raiseMemoryFault_pc (r : FaultRecord) : (s.raiseMemoryFault r).pc = s.pc := rfl
@[simp] theorem State.raiseMemoryFault_ir (r : FaultRecord) : (s.raiseMemoryFault r).ir = s.ir := rfl
@[simp] theorem State.raiseMemoryFault_run (r : FaultRecord) : (s.raiseMemoryFault r).run = .faulted := rfl
@[simp] theorem State.raiseMemoryFault_fault (r : FaultRecord) : (s.raiseMemoryFault r).fault = some r := rfl
@[simp] theorem State.raiseMemoryFault_mem (r : FaultRecord) : (s.raiseMemoryFault r).mem = s.mem := rfl
@[simp] theorem State.raiseMemoryFault_output (r : FaultRecord) : (s.raiseMemoryFault r).output = s.output := rfl
@[simp] theorem State.raiseMemoryFault_config (r : FaultRecord) : (s.raiseMemoryFault r).config = s.config := rfl
@[simp] theorem State.raiseMemoryFault_draws (r : FaultRecord) : (s.raiseMemoryFault r).draws = s.draws := rfl

/-! ### State.emit -/

@[simp] theorem State.emit_ac (e : OutEvent) : (s.emit e).ac = s.ac := rfl
@[simp] theorem State.emit_x (e : OutEvent) : (s.emit e).x = s.x := rfl
@[simp] theorem State.emit_y (e : OutEvent) : (s.emit e).y = s.y := rfl
@[simp] theorem State.emit_v (e : OutEvent) : (s.emit e).v = s.v := rfl
@[simp] theorem State.emit_sp (e : OutEvent) : (s.emit e).sp = s.sp := rfl
@[simp] theorem State.emit_pc (e : OutEvent) : (s.emit e).pc = s.pc := rfl
@[simp] theorem State.emit_ir (e : OutEvent) : (s.emit e).ir = s.ir := rfl
@[simp] theorem State.emit_run (e : OutEvent) : (s.emit e).run = s.run := rfl
@[simp] theorem State.emit_fault (e : OutEvent) : (s.emit e).fault = s.fault := rfl
@[simp] theorem State.emit_mem (e : OutEvent) : (s.emit e).mem = s.mem := rfl
@[simp] theorem State.emit_output (e : OutEvent) : (s.emit e).output = s.output ++ [e] := rfl
@[simp] theorem State.emit_config (e : OutEvent) : (s.emit e).config = s.config := rfl
@[simp] theorem State.emit_draws (e : OutEvent) : (s.emit e).draws = s.draws := rfl

/-! ### State.countDraw -/

@[simp] theorem State.countDraw_ac : (s.countDraw).ac = s.ac := rfl
@[simp] theorem State.countDraw_x : (s.countDraw).x = s.x := rfl
@[simp] theorem State.countDraw_y : (s.countDraw).y = s.y := rfl
@[simp] theorem State.countDraw_v : (s.countDraw).v = s.v := rfl
@[simp] theorem State.countDraw_sp : (s.countDraw).sp = s.sp := rfl
@[simp] theorem State.countDraw_pc : (s.countDraw).pc = s.pc := rfl
@[simp] theorem State.countDraw_ir : (s.countDraw).ir = s.ir := rfl
@[simp] theorem State.countDraw_run : (s.countDraw).run = s.run := rfl
@[simp] theorem State.countDraw_fault : (s.countDraw).fault = s.fault := rfl
@[simp] theorem State.countDraw_mem : (s.countDraw).mem = s.mem := rfl
@[simp] theorem State.countDraw_output : (s.countDraw).output = s.output := rfl
@[simp] theorem State.countDraw_config : (s.countDraw).config = s.config := rfl
@[simp] theorem State.countDraw_draws : (s.countDraw).draws = s.draws + 1 := rfl

/-! ### State.withDebugTracing -/

@[simp] theorem State.withDebugTracing_ac (b : Bool) : (s.withDebugTracing b).ac = s.ac := rfl
@[simp] theorem State.withDebugTracing_x (b : Bool) : (s.withDebugTracing b).x = s.x := rfl
@[simp] theorem State.withDebugTracing_y (b : Bool) : (s.withDebugTracing b).y = s.y := rfl
@[simp] theorem State.withDebugTracing_v (b : Bool) : (s.withDebugTracing b).v = s.v := rfl
@[simp] theorem State.withDebugTracing_sp (b : Bool) : (s.withDebugTracing b).sp = s.sp := rfl
@[simp] theorem State.withDebugTracing_pc (b : Bool) : (s.withDebugTracing b).pc = s.pc := rfl
@[simp] theorem State.withDebugTracing_ir (b : Bool) : (s.withDebugTracing b).ir = s.ir := rfl
@[simp] theorem State.withDebugTracing_run (b : Bool) : (s.withDebugTracing b).run = s.run := rfl
@[simp] theorem State.withDebugTracing_fault (b : Bool) : (s.withDebugTracing b).fault = s.fault := rfl
@[simp] theorem State.withDebugTracing_mem (b : Bool) : (s.withDebugTracing b).mem = s.mem := rfl
@[simp] theorem State.withDebugTracing_output (b : Bool) : (s.withDebugTracing b).output = s.output := rfl
@[simp] theorem State.withDebugTracing_draws (b : Bool) : (s.withDebugTracing b).draws = s.draws := rfl
@[simp] theorem State.withDebugTracing_config_length (b : Bool) :
    (s.withDebugTracing b).config.length = s.config.length := rfl
@[simp] theorem State.withDebugTracing_config_iretPcAddr (b : Bool) :
    (s.withDebugTracing b).config.iretPcAddr = s.config.iretPcAddr := rfl
@[simp] theorem State.withDebugTracing_config_iretSpAddr (b : Bool) :
    (s.withDebugTracing b).config.iretSpAddr = s.config.iretSpAddr := rfl
@[simp] theorem State.withDebugTracing_config_debugTracing (b : Bool) :
    (s.withDebugTracing b).config.debugTracing = b := rfl

end Sys2Proof.Machine
end

