-- ==== Sys2Proof/Laws/Memory.lean ====
section
/-! SUPPORT. The memory laws: a read after a write, the canonical form, and the bound on listed cells. -/

namespace Sys2Proof.Machine

theorem lookupCell_eq_zero_of_all_lt {l : List (Nat × Word)} {a : Nat}
    (h : l.all (fun c => decide (a < c.1)) = true) : lookupCell l a = 0#32 := by
  induction l with
  | nil => rfl
  | cons c rest ih =>
    obtain ⟨b, u⟩ := c
    simp only [List.all_cons, Bool.and_eq_true, decide_eq_true_eq] at h
    rw [lookupCell, if_neg (by omega), ih h.2]

theorem lookupCell_storeCell_other (l : List (Nat × Word)) {a b : Nat} (w : Word) (h : b ≠ a) :
    lookupCell (storeCell l a w) b = lookupCell l b := by
  induction l with
  | nil => by_cases hw : w = 0#32 <;> simp [storeCell, lookupCell, hw, h]
  | cons c rest ih =>
    obtain ⟨k, u⟩ := c
    by_cases hlt : a < k
    · by_cases hw : w = 0#32 <;> simp [storeCell, lookupCell, hlt, hw, h]
    · by_cases hk : a = k
      · subst hk
        by_cases hw : w = 0#32 <;> simp [storeCell, lookupCell, hw, h]
      · simp [storeCell, lookupCell, hlt, hk, ih]

/-- Cells above an address are above every lower one. -/
theorem all_above_of_lt {l : List (Nat × Word)} {a k : Nat} (hak : a < k)
    (h : l.all (fun c => decide (k < c.1)) = true) : l.all (fun c => decide (a < c.1)) = true := by
  rw [List.all_eq_true] at h ⊢
  intro c hc
  have := of_decide_eq_true (h c hc)
  exact decide_eq_true (by omega)

theorem lookupCell_storeCell_same {l : List (Nat × Word)} (a : Nat) (w : Word) (h : cellsWf l = true) :
    lookupCell (storeCell l a w) a = w := by
  induction l with
  | nil => by_cases hw : w = 0#32 <;> simp [storeCell, lookupCell, hw]
  | cons c rest ih =>
    obtain ⟨k, u⟩ := c
    simp only [cellsWf, Bool.and_eq_true] at h
    obtain ⟨⟨-, hall⟩, hrest⟩ := h
    by_cases hlt : a < k
    · have hr : lookupCell rest a = 0#32 := by
        apply lookupCell_eq_zero_of_all_lt
        simp only [List.all_eq_true, decide_eq_true_eq] at hall ⊢
        intro c hc
        have := hall c hc
        omega
      have hne : a ≠ k := by omega
      by_cases hw : w = 0#32 <;> simp [storeCell, lookupCell, hlt, hw, hne, hr]
    · by_cases hk : a = k
      · subst hk
        by_cases hw : w = 0#32
        · simp [storeCell, hw, lookupCell_eq_zero_of_all_lt hall]
        · simp [storeCell, lookupCell, hw]
      · simp [storeCell, lookupCell, hlt, hk, ih hrest]

/-- Storing keeps every property of addresses that the cells and the stored address have. -/
theorem storeCell_all {l : List (Nat × Word)} {p : Nat → Bool} (a : Nat) (w : Word)
    (hl : l.all (fun c => p c.1) = true) (ha : p a = true) :
    (storeCell l a w).all (fun c => p c.1) = true := by
  induction l with
  | nil => by_cases hw : w = 0#32 <;> simp [storeCell, hw, ha]
  | cons c rest ih =>
    obtain ⟨k, u⟩ := c
    have hl' := hl
    rw [List.all_cons, Bool.and_eq_true] at hl
    obtain ⟨hk, hrest⟩ := hl
    rw [storeCell]
    split_ifs
    · exact hl'
    · rw [List.all_cons, Bool.and_eq_true]
      exact ⟨ha, hl'⟩
    · exact hrest
    · rw [List.all_cons, Bool.and_eq_true]
      exact ⟨ha, hrest⟩
    · rw [List.all_cons, Bool.and_eq_true]
      exact ⟨hk, ih hrest⟩

theorem cellsWf_cons {a : Nat} {w : Word} {rest : List (Nat × Word)} :
    cellsWf ((a, w) :: rest) = true ↔
      w ≠ 0#32 ∧ rest.all (fun c => decide (a < c.1)) = true ∧ cellsWf rest = true := by
  simp only [cellsWf, Bool.and_eq_true, decide_eq_true_eq, and_assoc]

theorem storeCell_wf {l : List (Nat × Word)} (a : Nat) (w : Word) (h : cellsWf l = true) :
    cellsWf (storeCell l a w) = true := by
  induction l with
  | nil => by_cases hw : w = 0#32 <;> simp [storeCell, cellsWf, hw]
  | cons c rest ih =>
    obtain ⟨k, u⟩ := c
    have hc := h
    obtain ⟨hu, hall, hrest⟩ := cellsWf_cons.mp h
    rw [storeCell]
    split_ifs with hlt hw hk hw
    · exact hc
    · refine cellsWf_cons.mpr ⟨hw, ?_, hc⟩
      rw [List.all_cons, Bool.and_eq_true]
      exact ⟨decide_eq_true hlt, all_above_of_lt hlt hall⟩
    · exact hrest
    · exact cellsWf_cons.mpr ⟨hw, hk ▸ hall, hrest⟩
    · exact cellsWf_cons.mpr
        ⟨hu, storeCell_all (p := fun b => decide (k < b)) a w hall (decide_eq_true (by omega)), ih hrest⟩

/-- R51: a read of another address is not changed by a write. -/
theorem Memory.read_write_other (m : Memory) {a b : Nat} (w : Word) (h : b ≠ a) :
    (m.write a w).read b = m.read b := lookupCell_storeCell_other m.cells w h

/-- R51: a read after a write to the same address gives the word written. -/
theorem Memory.read_write_same {m : Memory} (a : Nat) (w : Word) (h : m.wf = true) :
    (m.write a w).read a = w := lookupCell_storeCell_same a w h

/-- A write keeps the canonical form. -/
theorem Memory.write_wf {m : Memory} (a : Nat) (w : Word) (h : m.wf = true) : (m.write a w).wf = true :=
  storeCell_wf a w h

/-- R38: a write to one of the memory's cells lists none outside it. -/
theorem Memory.write_within {m : Memory} {n a : Nat} (w : Word) (h : m.within n = true) (ha : a < n) :
    (m.write a w).within n = true :=
  storeCell_all (p := fun b => decide (b < n)) a w h (decide_eq_true ha)

/-- Copying an image in keeps the canonical form. -/
theorem Memory.copyIn_wf (ws : List Word) {m : Memory} (a : Nat) (h : m.wf = true) :
    (m.copyIn a ws).wf = true := by
  induction ws generalizing m a with
  | nil => exact h
  | cons w rest ih => exact ih (a + 1) (Memory.write_wf a w h)

/-- R133: copying an image that fits lists no cell outside memory. -/
theorem Memory.copyIn_within (ws : List Word) {m : Memory} {n a : Nat} (h : m.within n = true)
    (hn : a + ws.length ≤ n) : (m.copyIn a ws).within n = true := by
  induction ws generalizing m a with
  | nil => exact h
  | cons w rest ih =>
    simp only [List.length_cons] at hn
    exact ih (Memory.write_within w h (by omega)) (by omega)

/-- Reset's memory is in canonical form. -/
theorem State.resetWith_mem_wf (c : Config) : (State.resetWith c).mem.wf = true := rfl

/-- R132: reset's memory reads as 0 everywhere. -/
theorem State.resetWith_mem_read (c : Config) (a : Nat) : (State.resetWith c).mem.read a = 0#32 := rfl

end Sys2Proof.Machine
end

