-- ==== Sys2Proof/Laws/Ops.lean ====
section
/-! SUPPORT. One lemma per shared operation: everything it can answer. -/

namespace Sys2Proof.Machine

theorem inMemory_eq_true {s : State} {a : Word} : inMemory s a = true ↔ a.toNat < s.config.length := by
  simp [inMemory]

/-- What `MemRead` answers inside memory (R41). -/
theorem memRead_of_lt {s : State} {a : Word} (h : a.toNat < s.config.length) :
    memRead s a = .ok (s.mem.read a.toNat) := by
  simp [memRead, inMemory, h]

/-- What `MemRead` answers outside memory (R41). -/
theorem memRead_of_le {s : State} {a : Word} (h : s.config.length ≤ a.toNat) :
    memRead s a = .error { addr := a, kind := .read } := by
  simp [memRead, inMemory, Nat.not_lt.mpr h]

/-- What `MemWrite` answers inside memory (R42). -/
theorem memWrite_of_lt {s : State} {a : Word} (w : Word) (h : a.toNat < s.config.length) :
    memWrite s a w = .ok { s with mem := s.mem.write a.toNat w } := by
  simp [memWrite, inMemory, h]

/-- What `MemWrite` answers outside memory (R42). -/
theorem memWrite_of_le {s : State} {a : Word} (w : Word) (h : s.config.length ≤ a.toNat) :
    memWrite s a w = .error { addr := a, kind := .write } := by
  simp [memWrite, inMemory, Nat.not_lt.mpr h]

/-- What `FetchRead` answers inside memory (R43). -/
theorem fetchRead_of_lt {s : State} {a : Word} (h : a.toNat < s.config.length) :
    fetchRead s a = some (s.mem.read a.toNat) := by
  simp [fetchRead, inMemory, h]

/-- What `FetchRead` answers outside memory (R43). -/
theorem fetchRead_of_le {s : State} {a : Word} (h : s.config.length ≤ a.toNat) : fetchRead s a = none := by
  simp [fetchRead, inMemory, Nat.not_lt.mpr h]

/-- Loading AC from a cell of memory (R80, R82 to R84). -/
theorem loadAc_of_lt {s : State} {a : Word} (h : a.toNat < s.config.length) :
    loadAc s a = .ok (s.setAc (s.mem.read a.toNat)) := by
  simp [loadAc, memRead_of_lt h]

/-- Loading AC from outside memory (R80, R82 to R84). -/
theorem loadAc_of_le {s : State} {a : Word} (h : s.config.length ≤ a.toNat) :
    loadAc s a = .error { addr := a, kind := .read } := by
  simp [loadAc, memRead_of_le h]

/-- A push whose cell is in memory (R105, R111). -/
theorem pushWord_of_lt {s : State} (w : Word) (h : (pushAddress s).toNat < s.config.length) :
    pushWord s w = .ok { s with mem := s.mem.write (pushAddress s).toNat w, sp := pushAddress s } := by
  simp [pushWord, memWrite_of_lt w h, State.setSp]

/-- A push whose cell is outside memory (R105, R111, R113). -/
theorem pushWord_of_le {s : State} (w : Word) (h : s.config.length ≤ (pushAddress s).toNat) :
    pushWord s w = .error { addr := pushAddress s, kind := .write } := by
  simp [pushWord, memWrite_of_le w h]

/-- A pop whose cell is in memory (R106, R112). -/
theorem popWord_of_lt {s : State} (h : s.sp.toNat < s.config.length) :
    popWord s = .ok (s.mem.read s.sp.toNat, s.setSp (add32 s.sp 1#32)) := by
  simp [popWord, memRead_of_lt h]

/-- A pop whose cell is outside memory (R106, R112, R113). -/
theorem popWord_of_le {s : State} (h : s.config.length ≤ s.sp.toNat) :
    popWord s = .error { addr := s.sp, kind := .read } := by
  simp [popWord, memRead_of_le h]

/-- Both slots in memory (R107). -/
theorem restoreFromSlots_of_lt {s : State} (hp : s.config.iretPcAddr.toNat < s.config.length)
    (hq : s.config.iretSpAddr.toNat < s.config.length) :
    restoreFromSlots s = .ok ((s.setPc (s.mem.read s.config.iretPcAddr.toNat)).setSp
      (s.mem.read s.config.iretSpAddr.toNat)) := by
  simp [restoreFromSlots, memRead_of_lt hp, memRead_of_lt hq]

/-- The PC slot outside memory (R107). -/
theorem restoreFromSlots_of_le_pc {s : State} (hp : s.config.length ≤ s.config.iretPcAddr.toNat) :
    restoreFromSlots s = .error { addr := s.config.iretPcAddr, kind := .read } := by
  simp [restoreFromSlots, memRead_of_le hp]

/-- The PC slot in memory and the SP slot outside it (R107). -/
theorem restoreFromSlots_of_le_sp {s : State} (hp : s.config.iretPcAddr.toNat < s.config.length)
    (hq : s.config.length ≤ s.config.iretSpAddr.toNat) :
    restoreFromSlots s = .error { addr := s.config.iretSpAddr, kind := .read } := by
  simp [restoreFromSlots, memRead_of_lt hp, memRead_of_le hq]

/-- The end of an execute phase always answers a next state (R118). -/
theorem commit_cases (s : State) (r : Except FaultRecord State) :
    (∃ t, r = .ok t ∧ commit s r = .next t) ∨ (∃ e, r = .error e ∧ commit s r = .next (s.raiseMemoryFault e)) := by
  cases r with
  | ok t => exact .inl ⟨t, rfl, rfl⟩
  | error e => exact .inr ⟨e, rfl, rfl⟩

/-- What a step answers in each run state (R71, R76, R77, R135). -/
theorem step_cases (s : State) :
    (s.run = .idle ∧ step s = .next { s with run := .running }) ∨
    (s.run = .halted ∧ step s = .fault .runHalted) ∨
    (s.run = .faulted ∧ step s = .fault (.runFaulted s.fault)) ∨
    (s.run = .running ∧ s.config.length ≤ s.pc.toNat ∧ step s = .next s.halt) ∨
    (s.run = .running ∧ s.pc.toNat < s.config.length ∧
      step s = exec (decode (s.mem.read s.pc.toNat)) (s.fetched (s.mem.read s.pc.toNat))) := by
  cases hr : s.run with
  | idle => exact .inl ⟨rfl, by simp [step, hostRun, hr]⟩
  | halted => exact .inr (.inl ⟨rfl, by simp [step, hr]⟩)
  | faulted => exact .inr (.inr (.inl ⟨rfl, by simp [step, hr]⟩))
  | running =>
    rcases Nat.lt_or_ge s.pc.toNat s.config.length with h | h
    · exact .inr (.inr (.inr (.inr ⟨rfl, h, by simp [step, hr, fetchRead_of_lt h]⟩)))
    · exact .inr (.inr (.inr (.inl ⟨rfl, h, by simp [step, hr, fetchRead_of_le h]⟩)))

end Sys2Proof.Machine
end

