-- ==== Sys2Proof/Laws/PerInstr.lean ====
section
/-! SUPPORT. The statements made per instruction. -/

namespace Sys2Proof.Laws.EncodeFields

/-- R58, R61: the word of an instruction has the instruction's opcode in bits 7:0 and its operand in bits 31:8. -/
def Statement (i : Instr) : Prop :=
  opcodeOf (encode i) = i.opcode ∧ operandOf (encode i) = i.operand

theorem of_fields (i : Instr) : Statement i :=
  ⟨opcodeOf_encodeFields _ _, operandOf_encodeFields _ _⟩

theorem loadValue (imm : Operand) : Statement (.loadValue imm) := of_fields _
theorem loadAddr (addr : Operand) : Statement (.loadAddr addr) := of_fields _
theorem loadIndAddr (addr : Operand) : Statement (.loadIndAddr addr) := of_fields _
theorem loadIdxX (base : Operand) : Statement (.loadIdxX base) := of_fields _
theorem loadIdxY (base : Operand) : Statement (.loadIdxY base) := of_fields _
theorem loadSpX (ignored : Operand) : Statement (.loadSpX ignored) := of_fields _
theorem storeAddr (addr : Operand) : Statement (.storeAddr addr) := of_fields _
theorem rand (ignored : Operand) : Statement (.rand ignored) := of_fields _
theorem putPort (port : Operand) : Statement (.putPort port) := of_fields _
theorem addx (ignored : Operand) : Statement (.addx ignored) := of_fields _
theorem addy (ignored : Operand) : Statement (.addy ignored) := of_fields _
theorem subx (ignored : Operand) : Statement (.subx ignored) := of_fields _
theorem suby (ignored : Operand) : Statement (.suby ignored) := of_fields _
theorem copyToX (ignored : Operand) : Statement (.copyToX ignored) := of_fields _
theorem copyFromX (ignored : Operand) : Statement (.copyFromX ignored) := of_fields _
theorem copyToY (ignored : Operand) : Statement (.copyToY ignored) := of_fields _
theorem copyFromY (ignored : Operand) : Statement (.copyFromY ignored) := of_fields _
theorem copyToSp (ignored : Operand) : Statement (.copyToSp ignored) := of_fields _
theorem copyFromSp (ignored : Operand) : Statement (.copyFromSp ignored) := of_fields _
theorem jump (target : Operand) : Statement (.jump target) := of_fields _
theorem jumpIfEqual (target : Operand) : Statement (.jumpIfEqual target) := of_fields _
theorem jumpIfNotEqual (target : Operand) : Statement (.jumpIfNotEqual target) := of_fields _
theorem call (target : Operand) : Statement (.call target) := of_fields _
theorem ret (ignored : Operand) : Statement (.ret ignored) := of_fields _
theorem incx (ignored : Operand) : Statement (.incx ignored) := of_fields _
theorem decx (ignored : Operand) : Statement (.decx ignored) := of_fields _
theorem push (ignored : Operand) : Statement (.push ignored) := of_fields _
theorem pop (ignored : Operand) : Statement (.pop ignored) := of_fields _
theorem iret (ignored : Operand) : Statement (.iret ignored) := of_fields _
theorem endRun (ignored : Operand) : Statement (.endRun ignored) := of_fields _
theorem nopUnassigned (opcode : Opcode) (ignored : Operand) : Statement (.nopUnassigned opcode ignored) := of_fields _

end Sys2Proof.Laws.EncodeFields
end

