-- ==== Sys2Proof/Machine/Assembler.lean ====
section
/-! DEFINITION. The assembler of R61 and R68 (30_encoding.md): text to the image the loader copies from address 0. It is
no part of the CORE (R61) and changes no state. What R68 leaves open about labels and white space is a DESIGN CHOICE, log entry
12 (safe: no text reaches the CORE). -/

namespace Sys2Proof.Machine

/-- R61, R68: why the assembler makes no image. -/
inductive AsmError where
  /-- The name is no mnemonic of R63. -/
  | unknownMnemonic
  /-- R68: the opcode takes an operand and none is written. -/
  | missingOperand
  /-- R68: an operand stands where none is written. -/
  | unexpectedOperand
  /-- The number is no decimal or `0x` number. -/
  | badNumber
  /-- R61, D4: the operand does not fit 24 bits. -/
  | operandTooWide
  /-- R68: the value of `.word` does not fit 32 bits. -/
  | wordTooWide
  /-- No label of that name stands in the text. -/
  | undefinedLabel
  /-- Two labels have the same name. -/
  | duplicateLabel
  /-- The label's name is empty. -/
  | badLabel
  deriving DecidableEq, Repr

/-- R63, R68: the mnemonics with their opcode values. -/
def mnemonicTable : List (String × Nat) :=
  [("LOAD_VALUE", 1), ("LOAD_ADDR", 2), ("LOAD_IND_ADDR", 3), ("LOAD_IDX_X", 4), ("LOAD_IDX_Y", 5), ("LOAD_SP_X", 6),
   ("STORE_ADDR", 7), ("RAND", 8), ("PUT_PORT", 9), ("ADDX", 10), ("ADDY", 11), ("SUBX", 12), ("SUBY", 13)] ++
  [("COPY_TO_X", 14), ("COPY_FROM_X", 15), ("COPY_TO_Y", 16), ("COPY_FROM_Y", 17), ("COPY_TO_SP", 18),
   ("COPY_FROM_SP", 19), ("JUMP", 20), ("JUMP_IF_EQUAL", 21), ("JUMP_IF_NOT_EQUAL", 22), ("CALL", 23), ("RET", 24)] ++
  [("INCX", 25), ("DECX", 26), ("PUSH", 27), ("POP", 28), ("IRET", 30), ("END", 50)]

/-- R68: one thing the text writes: a label, a data word, or an instruction with or without an operand. -/
inductive AsmItem where
  | label (name : List Char)
  | word (value : List Char)
  | instr (opcode : Nat) (operand : Option (List Char))
  deriving DecidableEq, Repr

/-- R68: `#` begins a comment that runs to the end of the line. -/
def dropComments : Bool → List Char → List Char
  | _, [] => []
  | inComment, c :: rest =>
    if c = '\n' then c :: dropComments false rest
    else if inComment || c == '#' then dropComments true rest
    else c :: dropComments false rest

/-- R68: statements are separated by a newline or by `;`, and the parts of one by white space. -/
def splitOn (sep : Char → Bool) : List Char → List (List Char)
  | [] => [[]]
  | c :: rest =>
    match splitOn sep rest with
    | [] => [[c]]
    | part :: parts => if sep c then [] :: part :: parts else (c :: part) :: parts

/-- The value of one digit, decimal or hexadecimal. -/
def digitValue (c : Char) : Nat :=
  if c.isDigit then c.toNat - '0'.toNat
  else if 'a' ≤ c && c ≤ 'f' then c.toNat - 'a'.toNat + 10
  else if 'A' ≤ c && c ≤ 'F' then c.toNat - 'A'.toNat + 10
  else 16

/-- A number's digits, the most significant first. -/
def parseDigits (base : Nat) : List Char → Nat → Option Nat
  | [], n => some n
  | c :: rest, n => if digitValue c < base then parseDigits base rest (n * base + digitValue c) else none

/-- R68: a decimal number or a `0x` hexadecimal number. -/
def parseNumber : List Char → Option Nat
  | '0' :: 'x' :: c :: rest => parseDigits 16 (c :: rest) 0
  | c :: rest => parseDigits 10 (c :: rest) 0
  | [] => none

/-- R68: the parts of one statement: labels first, then at most one data word or instruction. -/
def parseParts : List (List Char) → Except AsmError (List AsmItem)
  | [] => .ok []
  | p :: rest =>
    if p.getLast? = some ':' then
      if p.length < 2 then .error .badLabel
      else (parseParts rest).map (fun items => .label p.dropLast :: items)
    else if p = ".word".toList then
      match rest with
      | [v] => .ok [.word v]
      | [] => .error .missingOperand
      | _ :: _ :: _ => .error .unexpectedOperand
    else
      match mnemonicTable.find? (fun m => m.1.toList == p), rest with
      | none, _ => .error .unknownMnemonic
      | some m, [] => .ok [.instr m.2 none]
      | some m, [v] => .ok [.instr m.2 (some v)]
      | some _, _ :: _ :: _ => .error .unexpectedOperand

/-- The items of all statements, in order. -/
def parseStatements : List (List Char) → Except AsmError (List AsmItem)
  | [] => .ok []
  | st :: rest =>
    match parseParts ((splitOn Char.isWhitespace st).filter (fun p => !p.isEmpty)), parseStatements rest with
    | .error e, _ => .error e
    | .ok _, .error e => .error e
    | .ok items, .ok more => .ok (items ++ more)

/-- R68: the labels with the address each stands at, counting words from `a`. -/
def labelAddresses : Nat → List AsmItem → List (List Char × Nat)
  | _, [] => []
  | a, .label n :: rest => (n, a) :: labelAddresses a rest
  | a, .word _ :: rest => labelAddresses (a + 1) rest
  | a, .instr _ _ :: rest => labelAddresses (a + 1) rest

/-- R68: the value of an operand: a number, which begins with a digit, or a label. -/
def operandValue (labels : List (List Char × Nat)) (v : List Char) : Except AsmError Nat :=
  match v.head?.any Char.isDigit, parseNumber v, labels.find? (fun l => l.1 == v) with
  | true, some n, _ => .ok n
  | true, none, _ => .error .badNumber
  | false, _, some l => .ok l.2
  | false, _, none => .error .undefinedLabel

/-- R60: whether instructions with this opcode value ignore their operand. -/
def takesNoOperand (opcode : Nat) : Bool :=
  decide ((instrOfFields (BitVec.ofNat 8 opcode) 0).operandUse = .ignored)

/-- R61, R68: the word of one instruction; an opcode that takes no operand is assembled with operand 0. -/
def assembleInstr (labels : List (List Char × Nat)) (opcode : Nat) (operand : Option (List Char)) :
    Except AsmError Word :=
  match takesNoOperand opcode, operand with
  | true, none => .ok (BitVec.ofNat 32 opcode)
  | true, some _ => .error .unexpectedOperand
  | false, none => .error .missingOperand
  | false, some v =>
    match operandValue labels v with
    | .error e => .error e
    | .ok n =>
      match encodeNumbers opcode n with
      | some w => .ok w
      | none => .error .operandTooWide

/-- R68: the raw word of a data directive, decimal or `0x`, below 2^32. -/
def assembleWord (v : List Char) : Except AsmError Word :=
  match parseNumber v with
  | none => .error .badNumber
  | some n => if n < 2 ^ 32 then .ok (BitVec.ofNat 32 n) else .error .wordTooWide

/-- The words of the items, in order. -/
def assembleItems (labels : List (List Char × Nat)) : List AsmItem → Except AsmError (List Word)
  | [] => .ok []
  | .label _ :: rest => assembleItems labels rest
  | .word v :: rest =>
    match assembleWord v, assembleItems labels rest with
    | .error e, _ => .error e
    | .ok _, .error e => .error e
    | .ok w, .ok ws => .ok (w :: ws)
  | .instr op o :: rest =>
    match assembleInstr labels op o, assembleItems labels rest with
    | .error e, _ => .error e
    | .ok _, .error e => .error e
    | .ok w, .ok ws => .ok (w :: ws)

/-- R61, R68: the image of a program text, or why there is none. -/
def assemble (text : String) : Except AsmError (List Word) :=
  match parseStatements (splitOn (fun c => c == '\n' || c == ';') (dropComments false text.toList)) with
  | .error e => .error e
  | .ok items =>
    if ((labelAddresses 0 items).map Prod.fst).Nodup then assembleItems (labelAddresses 0 items) items
    else .error .duplicateLabel

end Sys2Proof.Machine
end

