-- ==== Sys2Proof/Tests/Slice0.lean ====
section
/-! SUPPORT. The model's own tests. Expected values are the vectors of 95_test_vectors.md (named L1-n, L2-xn) or the rule
named; the witnesses show that the hypotheses of the statements can be met. -/

namespace Sys2Proof.Tests

open Sys2Proof.Machine

/-! ### Well-formedness: an ill-formed term for each check -/

theorem test_noop_with_assigned_opcode_is_ill_formed :
    (Instr.nopUnassigned 1 0).wf = false ∧ (Instr.nopUnassigned 50 7).wf = false := by decide

theorem test_noop_with_unassigned_opcode_is_well_formed :
    (Instr.nopUnassigned 29 0).wf = true ∧ (Instr.nopUnassigned 0 0).wf = true := by decide

theorem test_config_length_zero_is_ill_formed : (Config.hardware 0).wf = false := by decide

theorem test_config_length_above_bound_is_ill_formed : (Config.hardware (2 ^ 31 + 1)).wf = false := by decide

theorem test_config_default_is_well_formed : Config.default.wf = true ∧ (Config.hardware 1).wf = true := by decide

theorem test_memory_with_zero_cell_is_ill_formed : (Memory.mk [(3, 0)]).wf = false := by decide

theorem test_memory_out_of_order_is_ill_formed :
    (Memory.mk [(3, 1), (3, 2)]).wf = false ∧ (Memory.mk [(4, 1), (3, 2)]).wf = false := by decide

theorem test_memory_cell_outside_is_ill_formed : (Memory.mk [(2000, 1)]).within 2000 = false := by decide

/-! ### Decoding: a word for every constructor, from R58 and R63 -/

theorem test_decode_loads :
    decode 0xFFFFFF01 = .loadValue 0xFFFFFF ∧ decode 0x00001402 = .loadAddr 20 ∧
    decode 0x00000A03 = .loadIndAddr 10 ∧ decode 0x00001404 = .loadIdxX 20 ∧ decode 0x00001405 = .loadIdxY 20 ∧
    decode 0x00000006 = .loadSpX 0 ∧ decode 0x00001707 = .storeAddr 23 := by decide

theorem test_decode_random_and_output :
    decode 0xABCDEF08 = .rand 0xABCDEF ∧ decode 0x00010109 = .putPort 0x101 := by decide

theorem test_decode_arithmetic :
    decode 0x1234560A = .addx 0x123456 ∧ decode 0x0000000B = .addy 0 ∧ decode 0x0000000C = .subx 0 ∧
    decode 0x0000000D = .suby 0 ∧ decode 0x00000019 = .incx 0 ∧ decode 0x0000001A = .decx 0 := by decide

theorem test_decode_transfers :
    decode 0x0000000E = .copyToX 0 ∧ decode 0xFFFFFF0F = .copyFromX 0xFFFFFF ∧ decode 0x00000010 = .copyToY 0 ∧
    decode 0x00000011 = .copyFromY 0 ∧ decode 0x00000012 = .copyToSp 0 ∧ decode 0x00000013 = .copyFromSp 0 := by decide

theorem test_decode_control :
    decode 0x00000714 = .jump 7 ∧ decode 0x00000215 = .jumpIfEqual 2 ∧ decode 0x00000216 = .jumpIfNotEqual 2 ∧
    decode 0x00000417 = .call 4 ∧ decode 0x00000018 = .ret 0 ∧ decode 0x0000001E = .iret 0 ∧
    decode 0xFFFFFF32 = .endRun 0xFFFFFF := by decide

theorem test_decode_stack : decode 0x0000001B = .push 0 ∧ decode 0x0000001C = .pop 0 := by decide

theorem test_decode_unassigned :
    decode 0x00000000 = .nopUnassigned 0 0 ∧ decode 0xFFFFFFFF = .nopUnassigned 255 0xFFFFFF ∧
    decode 0x0000001D = .nopUnassigned 29 0 ∧ decode 0x00000031 = .nopUnassigned 49 0 := by decide

/-- L1-1. -/
theorem test_encode : encode (.call 4) = 0x00000417 ∧ encode (.loadValue 0xFFFFFF) = 0xFFFFFF01 := by decide

/-- L1-1: `encode(1, 0x1000000)` is refused. -/
theorem test_encode_numbers : encodeNumbers 23 4 = some 0x00000417 ∧ encodeNumbers 1 0x1000000 = none := by decide

theorem test_decode_table_word :
    decodeTableWord 32 0x00000417 = some (.call 4) ∧ decodeTableWord 8 0x32 = some (.endRun 0) ∧
    decodeTableWord 40 0 = none ∧ decodeTableWord 8 0x100 = none := by decide

/-! ### One step: the instruction word `w` at address 0 of a running machine, after `f` -/

def oneWord (w : Word) : State := { State.reset with run := .running, mem := { cells := [(0, w)] } }

def nextOf : Result → Option State
  | .next s => some s
  | .fault _ => none
  | .refused _ => none

def after (w : Word) (f : State → State) : Option State := nextOf (step (f (oneWord w)))

def stopOf (s : State) : RunState × Option FaultRecord := (s.run, s.fault)

/-- L2-F1: the unassigned opcode 0 only advances. -/
theorem test_nop : (after 0x00000000 id).map (fun s => (s.pc, s.ir, s.run)) = some (1, 0, .running) := by decide

/-- L2-F2. -/
theorem test_nop_all_ones : (after 0xFFFFFFFF id).map registersOf =
    some { ac := 0, x := 0, y := 0, v := 0, sp := 2000, pc := 1, ir := 0xFFFFFFFF } := by decide

/-- L2-F6, L1-6: a fetch at LENGTH halts with no fault. -/
theorem test_fetch_at_length : (after 0 (fun s => { s with pc := 2000, ir := 7 })).map (fun s => (stopOf s, s.pc, s.ir)) =
    some ((.halted, none), 2000, 7) := by decide

/-- L2-F9: `LENGTH = 1`. -/
theorem test_push_with_length_one :
    (nextOf (step { State.resetWith (Config.hardware 1) with
      run := .running, ac := 5, mem := { cells := [(0, 0x1B)] } })).map (fun s => (s.mem, s.sp, s.pc)) =
    some ({ cells := [(0, 5)] }, 0, 1) := by decide

/-- L2-L2. -/
theorem test_load_value : (after 0xFFFFFF01 id).map (·.ac) = some 0x00FFFFFF := by decide

/-- L2-L5. -/
theorem test_load_addr :
    (after 0x0007CF02 (fun s => { s with mem := s.mem.write 1999 0xABCD })).map (·.ac) = some 0xABCD := by decide

/-- L2-L6. -/
theorem test_load_addr_outside : (after 0x0007D002 id).map (fun s => (stopOf s, s.ac, s.pc)) =
    some ((.faulted, some { addr := 2000, kind := .read }), 0, 1) := by decide

/-- L2-L7. -/
theorem test_load_ind_addr :
    (after 0x00000A03 (fun s => { s with mem := (s.mem.write 10 20).write 20 7 })).map (·.ac) = some 7 := by decide

/-- L2-L8: the second read fails. -/
theorem test_load_ind_addr_pointer_outside :
    (after 0x00000A03 (fun s => { s with mem := s.mem.write 10 5000 })).map stopOf =
    some (.faulted, some { addr := 5000, kind := .read }) := by decide

/-- L2-L12: a negative index. -/
theorem test_load_idx_x :
    (after 0x00001404 (fun s => { s with x := 0xFFFFFFFF, mem := s.mem.write 19 77 })).map (·.ac) = some 77 := by decide

/-- L2-L14: never wrapped to 0. -/
theorem test_load_idx_x_outside : (after 0x00001404 (fun s => { s with x := 1980 })).map stopOf =
    some (.faulted, some { addr := 2000, kind := .read }) := by decide

/-- L2-L16. -/
theorem test_load_idx_y : (after 0x00001405 (fun s => { s with y := 0xFFFFFFEC })).map (·.ac) = some 0x00001405 := by
  decide

/-- L2-L19. -/
theorem test_load_sp_x :
    (after 0x00000006 (fun s => { s with sp := 0xFFFFFFF0, x := 0x20, mem := s.mem.write 16 123 })).map (·.ac) =
    some 123 := by decide

/-- L2-L18. -/
theorem test_load_sp_x_empty_stack : (after 0x00000006 id).map stopOf =
    some (.faulted, some { addr := 2000, kind := .read }) := by decide

/-- L2-L20. -/
theorem test_store_addr : (after 0x00001707 (fun s => { s with ac := 15 })).map (fun s => s.mem.read 23) = some 15 := by
  decide

/-- L2-L21. -/
theorem test_store_addr_outside : (after 0x0007D007 (fun s => { s with ac := 9 })).map (fun s => (stopOf s, s.mem)) =
    some ((.faulted, some { addr := 2000, kind := .write }), { cells := [(0, 0x0007D007)] }) := by decide

/-- L2-R1, L2-R2: what RAND does with the draws 0 and 100. -/
theorem test_rand_draws :
    (loadDraw 0 State.reset).ac = 0 ∧ (loadDraw 100 State.reset).ac = 100 := by decide

/-- R86: RAND takes one draw. -/
theorem test_rand_counts : (after 0x00000008 id).map (fun s => (s.draws, s.pc)) = some (1, 1) := by decide

/-- L2-R5. -/
theorem test_put_port : (after 0x00000109 (fun s => { s with ac := 0xFFFFFFFF })).map (·.output) =
    some [{ port := .decimal, data := 0xFFFFFFFF }] := by decide

/-- L2-R6, L2-R9: port 2, and 257 which is no port. -/
theorem test_put_port_other :
    (after 0x00000209 (fun s => { s with ac := 72 })).map (·.output) = some [{ port := .character, data := 72 }] ∧
    (after 0x00010109 (fun s => { s with ac := 1 })).map (fun s => (s.output, s.run)) = some ([], .running) := by decide

/-- L2-A2. -/
theorem test_addx_wraps : (after 0x0000000A (fun s => { s with ac := 0xFFFFFFFF, x := 1 })).map (·.ac) = some 0 := by
  decide

/-- L2-A4. -/
theorem test_addy : (after 0x0000000B (fun s => { s with ac := 8, y := 7 })).map (·.ac) = some 15 := by decide

/-- L2-A6. -/
theorem test_subx_wraps : (after 0x0000000C (fun s => { s with ac := 0, x := 1 })).map (·.ac) = some 0xFFFFFFFF := by
  decide

/-- L2-A9. -/
theorem test_suby : (after 0x0000000D (fun s => { s with ac := 3, y := 10 })).map (·.ac) = some 0xFFFFFFF9 := by decide

/-- L2-A11. -/
theorem test_incx_wraps : (after 0x00000019 (fun s => { s with x := 0xFFFFFFFF, ac := 2 })).map
    (fun s => (s.x, s.ac)) = some (0, 2) := by decide

/-- L2-A13. -/
theorem test_decx_wraps : (after 0x0000001A id).map (fun s => (s.x, s.ac)) = some (0xFFFFFFFF, 0) := by decide

/-- L2-T1, L2-T3, L2-T7. -/
theorem test_copies_to :
    (after 0x0000000E (fun s => { s with ac := 21 })).map (fun s => (s.x, s.ac)) = some (21, 21) ∧
    (after 0x00000010 (fun s => { s with ac := 7 })).map (fun s => (s.y, s.ac)) = some (7, 7) ∧
    (after 0x00000012 (fun s => { s with ac := 0xFFFFFFFF })).map (fun s => (s.sp, s.run)) =
      some (0xFFFFFFFF, .running) := by decide

/-- L2-F5, L2-T4, L2-T8. -/
theorem test_copies_from :
    (after 0xFFFFFF0F (fun s => { s with x := 3 })).map (fun s => (s.ac, s.x)) = some (3, 3) ∧
    (after 0x00000011 (fun s => { s with y := 7 })).map (fun s => (s.ac, s.y)) = some (7, 7) ∧
    (after 0x00000013 id).map (fun s => (s.ac, s.sp)) = some (2000, 2000) := by decide

/-- L2-C2. -/
theorem test_jump : (after 0x0007D014 id).map (fun s => (s.pc, s.run)) = some (2000, .running) := by decide

/-- L2-C3, L2-C5. -/
theorem test_jump_if_equal :
    (after 0x00000215 id).map (·.pc) = some 2 ∧
    (after 0x00000215 (fun s => { s with ac := 0xFFFFFFFF })).map (·.pc) = some 1 := by decide

/-- L2-C7, L2-C8. -/
theorem test_jump_if_not_equal :
    (after 0x00000216 (fun s => { s with ac := 0x80000000 })).map (·.pc) = some 2 ∧
    (after 0x00000216 id).map (·.pc) = some 1 := by decide

/-- L2-C9: CALL 4 at address 1. -/
theorem test_call :
    (after 0 (fun s => { s with pc := 1, mem := s.mem.write 1 0x00000417 })).map
      (fun s => (s.mem.read 1999, s.sp, s.pc)) = some (2, 1999, 4) := by decide

/-- L2-C11. -/
theorem test_call_above_memory : (after 0x00000517 (fun s => { s with sp := 2001 })).map
    (fun s => (stopOf s, s.sp, s.pc)) =
    some ((.faulted, some { addr := 2000, kind := .write }), 2001, 1) := by decide

/-- L2-C12. -/
theorem test_ret : (after 0x00000018 (fun s => { s with sp := 1999, mem := s.mem.write 1999 2 })).map
    (fun s => (s.pc, s.sp, s.mem.read 1999)) = some (2, 2000, 2) := by decide

/-- L2-C13. -/
theorem test_ret_empty_stack : (after 0x00000018 id).map (fun s => (stopOf s, s.sp, s.pc)) =
    some ((.faulted, some { addr := 2000, kind := .read }), 2000, 1) := by decide

/-- L2-C15: IRET at address 5. -/
theorem test_iret :
    (after 0 (fun s => { s with pc := 5, mem := s.mem.write 5 0x0000001E })).map (fun s => (stopOf s, s.pc, s.sp)) =
    some ((.faulted, some { addr := 2000, kind := .read }), 6, 2000) := by decide

/-- R107: the pseudocode with both slots in memory, by hand. -/
theorem test_iret_slots_in_memory :
    (after 0x0000001E (fun s => { s with
      config := { length := 2000, iretPcAddr := 1998, iretSpAddr := 1999, debugTracing := false }
      mem := (s.mem.write 1998 7).write 1999 1500 })).map (fun s => (s.run, s.pc, s.sp)) =
    some (.running, 7, 1500) := by decide

/-- L2-C17: END at address 2, operand ignored. -/
theorem test_end :
    (after 0 (fun s => { s with pc := 2, mem := s.mem.write 2 0xFFFFFF32 })).map (fun s => (stopOf s, s.pc)) =
    some ((.halted, none), 3) := by decide

/-- L2-S2: the push overwrites the word at 0. -/
theorem test_push : (after 0x0000001B (fun s => { s with sp := 1, ac := 4 })).map (fun s => (s.mem.read 0, s.sp)) =
    some (4, 0) := by decide

/-- L2-S3. -/
theorem test_push_overflow : (after 0x0000001B (fun s => { s with sp := 0, ac := 9 })).map
    (fun s => (stopOf s, s.sp, s.mem.read 0)) =
    some ((.faulted, some { addr := 0xFFFFFFFF, kind := .write }), 0, 0x1B) := by decide

/-- L2-S4. -/
theorem test_pop : (after 0x0000001C (fun s => { s with sp := 1997, mem := s.mem.write 1997 3 })).map
    (fun s => (s.ac, s.sp)) = some (3, 1998) := by decide

/-- L2-S6. -/
theorem test_pop_above_memory : (after 0x0000001C (fun s => { s with sp := 2001 })).map stopOf =
    some (.faulted, some { addr := 2001, kind := .read }) := by decide

/-! ### The run and the host -/

/-- R77: no successor. -/
theorem test_stopped : nextOf (step { State.reset with run := .halted }) = none ∧
    nextOf (step { State.reset with run := .faulted }) = none := by decide

/-- R135: from Idle the run starts at address 0 and nothing has run yet. -/
theorem test_run_entry : (nextOf (step State.reset)).map (fun s => (s.run, s.pc, s.ir)) = some (.running, 0, 0) := by
  decide

/-- The placed word is the first instruction after reset. -/
theorem test_with_fetch_word :
    (nextOf (step (State.reset.withFetchWord 32 0x00000501))).map (fun s => (s.ac, s.pc, s.ir)) =
    some (5, 1, 0x00000501) := by decide

/-- R133: an image longer than LENGTH is refused. -/
theorem test_load_too_long : nextOf (hostLoad [1, 2] (State.resetWith (Config.hardware 1))) = none := by decide

theorem test_load : (nextOf (hostLoad [5, 0, 7] State.reset)).map (·.mem) = some { cells := [(0, 5), (2, 7)] } := by
  decide

/-- L2-F8, R115: END at the last address is told from a fetch halt by IR. -/
theorem test_failure_kind :
    failureOf { State.reset with run := .halted, pc := 2000, ir := 0x32 } = .none ∧
    failureOf { State.reset with run := .halted, pc := 2000, ir := 0 } = .fetchFault ∧
    failureOf { State.reset with run := .faulted } = .memoryFault := by decide

/-- L2-R5: rendered "-1". -/
theorem test_render : renderEvent { port := .decimal, data := 0xFFFFFFFF } = "-1" := by decide

/-- R7, R128: with tracing off nothing is shown. -/
theorem test_trace_off : debugTrace ((oneWord 0x00000501).withDebugTracing false) = none := by decide

/-- R128: the trace shows the registers after the fetch. -/
theorem test_trace :
    (debugTrace ((oneWord 0x00000501).withDebugTracing true)).map (fun r => (r.pc, r.ir, r.ac)) = some (1, 0x00000501, 0) := by
  decide

/-! ### The assembler -/

/-- L1-4, program A. -/
theorem test_assemble_program_a :
    (assemble "LOAD_VALUE 5; PUT_PORT 1; END").toOption = some [0x00000501, 0x00000109, 0x00000032] := by decide

/-- R68: a label, a comment, a data word and a hexadecimal operand. -/
theorem test_assemble_label :
    (assemble "JUMP end # skip; it\nd: .word 0xFFFFFFFF\nend: LOAD_ADDR 0x1").toOption =
      some [0x00000214, 0xFFFFFFFF, 0x00000102] := by decide

/-- R61, R68: operands that are refused. -/
theorem test_assemble_refusals :
    (assemble "LOAD_VALUE 16777216").toOption = none ∧ (assemble "ADDX 1").toOption = none ∧
    (assemble "JUMP").toOption = none ∧ (assemble "NOP").toOption = none := by decide

/-! ### Witnesses: the hypotheses of each statement, met at boundary values -/

def low : State := { oneWord 0x00000501 with sp := 0 }

theorem witness_DecodeInvertsEncode : (Instr.nopUnassigned 255 0xFFFFFF).wf = true ∧ (Instr.endRun 0).wf = true := by decide

theorem witness_EncodeNumbersRejectsWideFields : 255 < 256 ∧ 2 ^ 24 - 1 < 2 ^ 24 ∧ 256 ≤ 256 ∧ 2 ^ 24 ≤ 2 ^ 24 := by decide

theorem witness_IgnoredOperandChangesNothing :
    (0x0000000F#32).extractLsb' 0 8 = (0xFFFFFF0F#32).extractLsb' 0 8 ∧
    (decode 0x0000000F#32).operandUse = .ignored := by decide

theorem witness_LoadAddrReadsAbsoluteAddress :
    (0x0007CF02#32).extractLsb' 0 8 = 2#8 ∧ (1999#24).toNat < State.reset.config.length ∧
    State.reset.config.length ≤ (2000#24).toNat := by decide

theorem witness_LoadIndAddrFollowsPointer :
    (0x00000A03#32).extractLsb' 0 8 = 3#8 ∧ State.reset.config.length ≤ (2000#24).toNat ∧
    (0#24).toNat < (oneWord 1999).config.length ∧ ((oneWord 1999).mem.read 0).toNat < (oneWord 1999).config.length ∧
    (oneWord 2000).config.length ≤ ((oneWord 2000).mem.read 0).toNat := by decide

theorem witness_LoadIndexedReadsModularSum :
    (19#32).toNat = ((20#24).toNat + (0xFFFFFFFF#32).toNat) % 2 ^ 32 ∧ (19#32).toNat < State.reset.config.length ∧
    (2000#32).toNat = ((20#24).toNat + (1980#32).toNat) % 2 ^ 32 ∧ State.reset.config.length ≤ (2000#32).toNat := by decide

theorem witness_LoadSpXReadsInsideStack :
    (0x10#32).toNat = ((0xFFFFFFF0#32).toNat + (0x20#32).toNat) % 2 ^ 32 ∧ (0x10#32).toNat < State.reset.config.length ∧
    (2000#32).toNat = (State.reset.sp.toNat + State.reset.x.toNat) % 2 ^ 32 ∧
    State.reset.config.length ≤ (2000#32).toNat := by decide

theorem witness_NegativeIndexReachesBelowBase :
    (20#32).toNat < 2 ^ 31 ∧ 2000 ≤ 2 ^ 31 ∧ (effectiveAddress 20#32 0xFFFFFFFF#32).toNat < 2000 := by decide

theorem witness_StoreAddrWritesOneCell :
    (0x0007CF07#32).extractLsb' 0 8 = 7#8 ∧ (oneWord 5).mem.wf = true ∧ (1999#24).toNat < (oneWord 5).config.length ∧
    (oneWord 5).config.length ≤ (2000#24).toNat := by decide

theorem witness_NextFetchSeesStore :
    (oneWord 5).mem.wf = true ∧ (oneWord 5).run = .running ∧ (oneWord 5).pc.toNat < (oneWord 5).config.length ∧
    (0#24).toNat = (oneWord 5).pc.toNat := by decide

theorem witness_AccessPrimitivesCheckLength :
    (1999#32).toNat < (oneWord 5).config.length ∧ (oneWord 5).mem.wf = true ∧
    (oneWord 5).config.length ≤ (2000#32).toNat := by decide

theorem witness_PutPortEmitsOneEvent :
    (1#24).toNat = 1 ∧ (2#24).toNat = 2 ∧ (0#24).toNat ≠ 1 ∧ (0#24).toNat ≠ 2 ∧ (3#24).toNat ≠ 1 ∧ (3#24).toNat ≠ 2 := by
  decide

theorem witness_OutputOnlyGrowsByPutPort :
    (∃ t, exec (.putPort 2) State.reset = .next t) ∧ (∃ o : Operand, Instr.putPort 2 = .putPort o ∧ (o.toNat = 1 ∨ o.toNat = 2)) ∧
    (∃ t, exec (.putPort 3) State.reset = .next t) ∧
    (∀ o : Operand, Instr.putPort 3 = .putPort o → o.toNat ≠ 1 ∧ o.toNat ≠ 2) :=
  ⟨⟨_, rfl⟩, ⟨2, rfl, .inr rfl⟩, ⟨_, rfl⟩, fun o h => by cases h; decide⟩

theorem witness_SubxThenJumpIfEqualTestsEquality :
    State.reset.ac = State.reset.x ∧ (State.reset.setAc 1).ac ≠ (State.reset.setAc 1).x := by decide

theorem witness_CopyToIndexRegisters :
    (0x0000000E#32).extractLsb' 0 8 = 14#8 ∧ (0x00000010#32).extractLsb' 0 8 = 16#8 ∧
    exec (.copyToY 0) (State.reset.setAc 7) = .next ((State.reset.setAc 7).setY 7) ∧
    ((State.reset.setAc 7).setY 7).y ≠ (State.reset.setAc 7).y := ⟨by decide, by decide, rfl, by decide⟩

theorem witness_CopyFromIndexRegisters :
    (0xFFFFFF0F#32).extractLsb' 0 8 = 15#8 ∧ (0x00000011#32).extractLsb' 0 8 = 17#8 := by decide

theorem witness_CopyToSpIsUnchecked :
    (0x00000012#32).extractLsb' 0 8 = 18#8 ∧ State.reset.config.wf = true ∧ State.reset.ac = 0#32 ∧
    State.reset.config.length < (State.reset.setAc 2001).ac.toNat ∧
    (State.reset.setAc 2001).ac.toNat + (State.reset.setAc 2001).x.toNat < 2 ^ 32 := by decide

theorem witness_CopyFromSpReadsStackPointer :
    (0x00000013#32).extractLsb' 0 8 = 19#8 ∧ (Config.hardware (2 ^ 31)).wf = true ∧ (Config.hardware 1).wf = true := by decide

theorem witness_JumpSetsPcAndMayLoopForever :
    (0x00000714#32).extractLsb' 0 8 = 20#8 ∧ (oneWord 20).run = .running ∧
    (oneWord 20).config.length ≤ (2000#24).toNat ∧ (oneWord 20).pc.toNat < (oneWord 20).config.length ∧
    ((oneWord 20).mem.read (oneWord 20).pc.toNat).toNat = (oneWord 20).pc.toNat * 256 + 20 := by decide

theorem witness_ConditionalJumpsTestAccumulator :
    (0x00000215#32).extractLsb' 0 8 = 21#8 ∧ (0x00000216#32).extractLsb' 0 8 = 22#8 ∧ State.reset.ac.toNat = 0 ∧
    (State.reset.setAc 0x80000000).ac.toNat ≠ 0 := by decide

theorem witness_stack_push_and_call :
    State.reset.mem.wf = true ∧ State.reset.config.wf = true ∧ 1 ≤ State.reset.sp.toNat ∧
    State.reset.sp.toNat ≤ State.reset.config.length ∧ 1 ≤ (State.reset.setSp 1).sp.toNat ∧ low.mem.wf = true ∧
    low.config.wf = true ∧ low.sp.toNat = 0 ∧ (State.reset.setSp 2001).config.length < (State.reset.setSp 2001).sp.toNat := by
  decide

theorem witness_stack_ret_and_pop :
    (0x00000018#32).extractLsb' 0 8 = 24#8 ∧ (0x0000001C#32).extractLsb' 0 8 = 28#8 ∧
    (State.reset.setSp 1999).sp.toNat < (State.reset.setSp 1999).config.length ∧ low.run = .running ∧
    low.sp.toNat < low.config.length ∧ ({ oneWord 2000 with sp := 0 } : State).config.length ≤
      (({ oneWord 2000 with sp := 0 } : State).mem.read 0).toNat ∧
    State.reset.config.length ≤ State.reset.sp.toNat := by decide

theorem witness_IretFaultsWithHardwareSlots :
    State.reset.config.wf = true ∧ State.reset.config.iretPcAddr.toNat = State.reset.config.length - 1 ∧
    State.reset.config.iretSpAddr.toNat = State.reset.config.length ∧
    (Config.hardware (2 ^ 31)).wf = true ∧ (Config.hardware (2 ^ 31)).iretPcAddr.toNat = 2 ^ 31 - 1 ∧
    (Config.hardware (2 ^ 31)).iretSpAddr.toNat = 2 ^ 31 := by decide

theorem witness_IretRestoresFromSlotsInMemory :
    (1998#32).toNat < (Config.mk 2000 1998 1999 false).length ∧ (1999#32).toNat < (Config.mk 2000 1998 1999 false).length := by decide

theorem witness_EndHaltsTheRun : (0xFFFFFF32#32).extractLsb' 0 8 = 50#8 := by decide

theorem witness_NextPcFollowsTable :
    failingAccess (.jump 0xFFFFFF) State.reset = none ∧ failingAccess (.ret 0) (State.reset.setSp 1999) = none := by decide

theorem witness_StackBoundsAreTheMemoryBounds :
    low.config.wf = true ∧ low.sp = 0#32 ∧ low.config.length ≤ (low.sp - 1#32).toNat ∧
    (State.reset.sp - 1#32).toNat < State.reset.config.length ∧ State.reset.config.length ≤ State.reset.sp.toNat ∧
    low.sp.toNat < low.config.length ∧ State.reset.config.length ≤ (State.reset.sp + State.reset.x).toNat ∧
    (low.sp + low.x).toNat < low.config.length ∧ State.reset.config.length ≤ (2000#24).toNat ∧
    (0#24).toNat < (oneWord 2000).config.length ∧ (oneWord 2000).config.length ≤ ((oneWord 2000).mem.read 0).toNat ∧
    State.reset.config.length ≤ ((2000#24).setWidth 32 + State.reset.x).toNat ∧
    State.reset.config.length ≤ ((2000#24).setWidth 32 + State.reset.y).toNat := by decide

theorem witness_MemoryFaultsAreExactlyTheTable :
    failingAccess (.pop 0) State.reset = some { addr := 2000, kind := .read } ∧
    failingAccess (.endRun 0) State.reset = none ∧ failingAccess (.push 0) State.reset = none := by decide

/-- For the frames over all instructions: an instruction that answers a next state and writes none of AC, X, Y, SP, PC. -/
theorem witness_frames :
    exec (.endRun 0) State.reset = .next State.reset.halt ∧ mayWriteAc (.endRun 0) = false ∧
    mayWriteX (.endRun 0) = false ∧ mayWriteY (.endRun 0) = false ∧ mayWriteSp (.endRun 0) = false ∧
    mayWritePc (.endRun 0) = false ∧ (∀ o, Instr.endRun 0 ≠ .rand o) :=
  ⟨rfl, rfl, rfl, rfl, rfl, rfl, fun _ h => by cases h⟩

theorem witness_MemoryChangesOnlyAtStoredAddress :
    (∃ t, exec (.push 0) State.reset = .next t) ∧ storedAddress (.push 0) State.reset ≠ some 1998 ∧
    storedAddress (.push 0) State.reset = some 1999 := ⟨⟨_, rfl⟩, by decide, by decide⟩

theorem witness_StepRunsDecodedInstruction :
    (oneWord 0x501).run = .running ∧ (oneWord 0x501).pc.toNat < (oneWord 0x501).config.length ∧
    0x501#32 = (oneWord 0x501).mem.read (oneWord 0x501).pc.toNat ∧ decode 0x501#32 = .loadValue 5 := by decide

theorem witness_FetchOutsideMemoryHalts :
    ((oneWord 5).setPc 2000).run = .running ∧ ((oneWord 5).setPc 2000).config.length ≤ ((oneWord 5).setPc 2000).pc.toNat := by
  decide

theorem witness_FetchIncrementNeverWraps :
    ((oneWord 5).setPc 1999).config.wf = true ∧ ((oneWord 5).setPc 1999).pc.toNat < ((oneWord 5).setPc 1999).config.length := by
  decide

theorem witness_RunStateGatesTheStep :
    State.reset.halt.run = .halted ∧ (State.reset.raiseMemoryFault { addr := 2000, kind := .read }).run = .faulted ∧
    (oneWord 5).run = .running ∧ State.reset.run = .idle := by decide

theorem witness_LoadCopiesImageFromZero :
    State.reset.mem.wf = true ∧ State.reset.run = .idle ∧ [5#32].length ≤ State.reset.config.length ∧
    (State.resetWith (Config.hardware 1)).config.length < [5#32, 6#32].length ∧ (oneWord 5).mem.wf = true ∧
    (oneWord 5).run ≠ .idle := by decide

/-- One word loaded where LENGTH is 2: cell 1 is not covered, and a running state over that memory names it. -/
theorem witness_UncoveredCellsStayZero :
    [5#32].length ≤ (Config.hardware 2).length ∧ [5#32].length ≤ 1 ∧
    (nextOf (hostLoad [5] (State.resetWith (Config.hardware 2)))).map (·.mem) = some (oneWord 5).mem ∧
    (oneWord 5).run = .running ∧ ((oneWord 5).setPc 1).pc.toNat = 1 ∧ (1#24).toNat = 1 ∧ 1 < (oneWord 5).config.length := by
  decide

theorem witness_ResetLeavesStatedValues : (Config.hardware 1).wf = true ∧ (Config.hardware (2 ^ 31)).wf = true := by decide

/-- At the last address, at LENGTH, and at an address before: all cells from PC upward are 0. -/
theorem witness_RunPastLastWordHaltsAtLength :
    ((oneWord 5).setPc 1998).config.wf = true ∧ ((oneWord 5).setPc 1998).run = .running ∧
    ((oneWord 5).setPc 1998).pc.toNat ≤ ((oneWord 5).setPc 1998).config.length ∧
    (∀ a, ((oneWord 5).setPc 1998).pc.toNat ≤ a → a < ((oneWord 5).setPc 1998).config.length →
      ((oneWord 5).setPc 1998).mem.read a = 0#32) ∧
    ((oneWord 5).setPc 2000).pc.toNat ≤ ((oneWord 5).setPc 2000).config.length := by
  refine ⟨by decide, by decide, by decide, fun a h1 _ => ?_, by decide⟩
  have h2 : (1998 : Nat) ≤ a := h1
  have h3 : a ≠ 0 := by omega
  simp [Memory.read, lookupCell, oneWord, State.setPc, h3]

theorem witness_HaltCauseIsToldByIr :
    (oneWord 0x32).Inv ∧ (oneWord 0x32).run = .running ∧ (∃ t, step (oneWord 0x32) = .next t ∧ t.run = .halted) ∧
    (oneWord 0x32).pc.toNat < (oneWord 0x32).config.length ∧ ((oneWord 5).setPc 2000).Inv ∧
    (∃ t, step ((oneWord 5).setPc 2000) = .next t ∧ t.run = .halted) ∧
    ((oneWord 5).setPc 2000).config.length ≤ ((oneWord 5).setPc 2000).pc.toNat :=
  ⟨by decide, by decide, ⟨_, rfl, rfl⟩, by decide, by decide, ⟨_, rfl, rfl⟩, by decide⟩

theorem witness_StepKeepsRunInvariant : (oneWord 0x501).Inv ∧ ∃ t, step (oneWord 0x501) = .next t :=
  ⟨by decide, ⟨_, rfl⟩⟩

theorem witness_HostActionsKeepRunInvariant : State.reset.Inv ∧ ∃ t, hostLoad [5] State.reset = .next t :=
  ⟨by decide, ⟨_, rfl⟩⟩

theorem witness_ReservedRegisterAndParametersAreConstant : ∃ t, step (oneWord 0x109) = .next t := ⟨_, rfl⟩

theorem witness_DebugTracingChangesNoStep :
    (oneWord 0x501).run = .running ∧ (oneWord 0x501).pc.toNat < (oneWord 0x501).config.length ∧
    State.reset.run ≠ .running ∧
    ((oneWord 0x501).setPc 2000).config.length ≤ ((oneWord 0x501).setPc 2000).pc.toNat := by decide

theorem witness_CanonicalMemoriesReadAlikeAreEqual :
    ∃ m n : Memory, m.wf = true ∧ n.wf = true ∧ ∀ a, m.read a = n.read a :=
  ⟨(oneWord 5).mem, (oneWord 5).mem, by decide, by decide, fun _ => rfl⟩

end Sys2Proof.Tests
end

