-- ==== Sys2Proof/Proofs/AccessPrimitives.lean ====
section
/-! PROOFS. What the three access primitives of section 20_memory.md answer, inside memory and outside it. -/

namespace Sys2Proof.Machine

/-- R42, R51: inside canonical memory `MemWrite` completes, and only the addressed cell of the state is new. -/
theorem memWrite_changes_only_cell {s : State} {a : Word} (w : Word) (hwf : s.mem.wf = true)
    (h : a.toNat < s.config.length) :
    ∃ t, memWrite s a w = .ok t ∧ t.mem.read a.toNat = w ∧
      (∀ b, b ≠ a.toNat → t.mem.read b = s.mem.read b) ∧ t = { s with mem := t.mem } :=
  ⟨{ s with mem := s.mem.write a.toNat w }, memWrite_of_lt w h, Memory.read_write_same a.toNat w hwf,
    fun _ hb => Memory.read_write_other s.mem w hb, rfl⟩

/-- Settles O15, by the two cases of the address: below `LENGTH` each primitive reaches its cell, and from `LENGTH` on
none does. -/
theorem accessPrimitivesCheckLength : Obligations.AccessPrimitivesCheckLength := by
  intro s a w
  constructor
  · intro inside
    exact ⟨memRead_of_lt inside, fetchRead_of_lt inside, fun hwf => memWrite_changes_only_cell w hwf inside⟩
  · intro outside
    exact ⟨memRead_of_le outside, memWrite_of_le w outside, fetchRead_of_le outside⟩

end Sys2Proof.Machine
end

