-- ==== Sys2Proof/Proofs/FetchStep.lean ====
section
/-! PROOFS. The running step of section 40_fetch_decode.md: fetch, decode, execute. -/

namespace Sys2Proof.Machine

/-- R73: where the PC names a cell, a running step is the execute phase after the fetch phase's two writes. -/
theorem step_of_running_of_lt {s : State} (running : s.run = .running) (inside : s.pc.toNat < s.config.length) :
    step s = exec (decode (s.mem.read s.pc.toNat)) (s.fetched (s.mem.read s.pc.toNat)) := by
  simp only [step, running, fetchRead_of_lt inside]

/-- The fetch phase writes IR and PC and leaves the rest of the state (R73). -/
theorem fetched_eq_update_ir_pc (s : State) (w : Word) : s.fetched w = { s with ir := w, pc := s.pc + 1#32 } := rfl

/-- Settles O46: a running step inside memory is fetch, then execute, and the fetch's writes are those to IR and PC. -/
theorem stepRunsDecodedInstruction : Obligations.StepRunsDecodedInstruction := by
  rintro s _ _ running inside rfl rfl
  rw [step_of_running_of_lt running inside, fetched_eq_update_ir_pc]

end Sys2Proof.Machine
end

