-- ==== Sys2Proof/Proofs/OperandFields.lean ====
section
/-! PROOFS. The two fields of an instruction word (R58): the opcode selects the instruction, and the operand, taken as
an absolute address (R59), keeps its value. -/

namespace Sys2Proof

/-- R58, R63: a word whose opcode field is known decodes by that opcode's row of the opcode map. -/
theorem decode_of_opcode_eq {w : Word} {op : Opcode} (hop : w.extractLsb' 0 8 = op) :
    decode w = instrOfFields op (w.extractLsb' 8 24) :=
  congrArg (instrOfFields · (w.extractLsb' 8 24)) hop

namespace Machine

/-- R59: extending the operand by zeros to an address does not change its value. -/
@[simp] theorem absolute_toNat (o : Operand) : (absolute o).toNat = o.toNat :=
  BitVec.toNat_setWidth_of_le (by decide)

theorem absolute_lt_length {o : Operand} {s : State} (h : o.toNat < s.config.length) :
    (absolute o).toNat < s.config.length := (absolute_toNat o).symm ▸ h

theorem length_le_absolute {o : Operand} {s : State} (h : s.config.length ≤ o.toNat) :
    s.config.length ≤ (absolute o).toNat := (absolute_toNat o).symm ▸ h

end Machine
end Sys2Proof
end

