-- ==== Sys2Proof/Proofs/LoadStore.lean ====
section
/-! PROOFS. The loads and the store at absolute addresses of section 41_load_store.md: LOAD_ADDR, LOAD_IND_ADDR and
STORE_ADDR. -/

namespace Sys2Proof.Machine

/-- R118: an execute phase whose accesses all succeed commits what it computed. -/
theorem commit_ok (s t : State) : commit s (.ok t) = .next t := rfl

/-- R117, R118: an execute phase with a failed access changes the run state and the fault record only. -/
theorem commit_error (s : State) (e : FaultRecord) :
    commit s (.error e) = .next { s with run := .faulted, fault := some e } := rfl

/-- R80, R82 to R84: a load from a cell of memory completes, and AC alone changes. -/
theorem commit_loadAc_of_lt {s : State} {a : Word} (h : a.toNat < s.config.length) :
    commit s (loadAc s a) = .next { s with ac := s.mem.read a.toNat } := by
  rw [loadAc_of_lt h, commit_ok, State.setAc]

/-- R80, R82 to R84: a load from outside memory takes the read's MemoryFault. -/
theorem commit_loadAc_of_le {s : State} {a : Word} (h : s.config.length ≤ a.toNat) :
    commit s (loadAc s a) = .next { s with run := .faulted, fault := some { addr := a, kind := .read } } := by
  rw [loadAc_of_le h, commit_error]

/-- R81: once the pointer is read, LOAD_IND_ADDR is the load from the address it holds. -/
theorem execLoadIndAddr_of_lt {o : Operand} {s : State} (h : o.toNat < s.config.length) :
    execLoadIndAddr o s = commit s (loadAc s (s.mem.read o.toNat)) := by
  simp only [execLoadIndAddr, memRead_of_lt (absolute_lt_length h), absolute_toNat]

/-- R81: with the pointer's own cell outside memory the second read is not made. -/
theorem execLoadIndAddr_of_le {o : Operand} {s : State} (h : s.config.length ≤ o.toNat) :
    execLoadIndAddr o s =
      .next { s with run := .faulted, fault := some { addr := absolute o, kind := .read } } := by
  simp only [execLoadIndAddr, memRead_of_le (length_le_absolute h), commit_error]

/-- R85, R51: inside canonical memory STORE_ADDR completes, and only the operand's cell is new. -/
theorem execStoreAddr_changes_only_cell {o : Operand} {s : State} (hwf : s.mem.wf = true)
    (h : o.toNat < s.config.length) :
    ∃ t, execStoreAddr o s = .next t ∧ t.mem.read o.toNat = s.ac ∧
      (∀ a, a ≠ o.toNat → t.mem.read a = s.mem.read a) ∧ t = { s with mem := t.mem } := by
  obtain ⟨t, hwrite, hcell, hother, hframe⟩ := memWrite_changes_only_cell s.ac hwf (absolute_lt_length h)
  rw [absolute_toNat] at hcell hother
  exact ⟨t, by rw [execStoreAddr, hwrite, commit_ok], hcell, hother, hframe⟩

/-- R85: outside memory STORE_ADDR takes the write's MemoryFault. -/
theorem execStoreAddr_of_le {o : Operand} {s : State} (h : s.config.length ≤ o.toNat) :
    execStoreAddr o s =
      .next { s with run := .faulted, fault := some { addr := absolute o, kind := .write } } := by
  rw [execStoreAddr, memWrite_of_le s.ac (length_le_absolute h), commit_error]

/-- Settles O8, by the two cases of the operand: below `LENGTH` the one read reaches a cell, from `LENGTH` on none. -/
theorem loadAddrReadsAbsoluteAddress : Obligations.LoadAddrReadsAbsoluteAddress := by
  refine ⟨fun _ hop => decode_of_opcode_eq hop, fun o s => ⟨fun inside => ?_, fun outside => ?_⟩⟩
  · rw [← absolute_toNat o]
    exact commit_loadAc_of_lt (absolute_lt_length inside)
  · exact commit_loadAc_of_le (length_le_absolute outside)

/-- Settles O9: the first access decides whether there is a second, and the second is a load through the pointer. -/
theorem loadIndAddrFollowsPointer : Obligations.LoadIndAddrFollowsPointer := by
  refine ⟨fun _ hop => decode_of_opcode_eq hop, fun o s => ⟨execLoadIndAddr_of_le, ?_⟩⟩
  rintro inside _ rfl
  have second : exec (.loadIndAddr o) s = commit s (loadAc s (s.mem.read o.toNat)) := execLoadIndAddr_of_lt inside
  rw [second]
  exact ⟨commit_loadAc_of_lt, commit_loadAc_of_le⟩

/-- Settles O13, by the two cases of the operand: below `LENGTH` the write reaches its cell, else none. -/
theorem storeAddrWritesOneCell : Obligations.StoreAddrWritesOneCell :=
  ⟨fun _ hop => decode_of_opcode_eq hop, fun _ _ hwf => ⟨execStoreAddr_changes_only_cell hwf, execStoreAddr_of_le⟩⟩

end Sys2Proof.Machine
end

