-- ==== Sys2Proof/Proofs/NextStates.lean ====
section
/-! PROOFS. Which next states an execute phase with a branch can answer: a memory access that succeeds or fails (R118),
a port that is or is not one of the two (R87), a jump taken or not (R103, R104). -/

namespace Sys2Proof.Machine

variable {s t : State} {o : Operand}

/-- R118: the next state of an execute phase is the one it computed, or the MemoryFault's. -/
theorem commit_next {r : Except FaultRecord State} (h : commit s r = .next t) :
    r = .ok t ∨ ∃ e, t = s.raiseMemoryFault e := by
  obtain ⟨u, hr, hu⟩ | ⟨e, -, hu⟩ := commit_cases s r
  · exact .inl (Host.Outcome.next.inj (hu.symm.trans h) ▸ hr)
  · exact .inr ⟨e, Host.Outcome.next.inj (h.symm.trans hu)⟩

/-- R80, R82 to R84: a load can change AC only. -/
theorem commit_loadAc_next {a : Word} (h : commit s (loadAc s a) = .next t) :
    (∃ w, t = s.setAc w) ∨ ∃ e, t = s.raiseMemoryFault e := by
  refine (commit_next h).imp_left fun ok => ?_
  rcases Nat.lt_or_ge a.toNat s.config.length with inside | outside
  · exact ⟨_, (Except.ok.inj ((loadAc_of_lt inside).symm.trans ok)).symm⟩
  · cases (loadAc_of_le outside).symm.trans ok

/-- R81: LOAD_IND_ADDR can change AC only. -/
theorem execLoadIndAddr_next (h : execLoadIndAddr o s = .next t) :
    (∃ w, t = s.setAc w) ∨ ∃ e, t = s.raiseMemoryFault e := by
  rcases Nat.lt_or_ge o.toNat s.config.length with inside | outside
  · exact commit_loadAc_next ((execLoadIndAddr_of_lt inside).symm.trans h)
  · exact .inr ⟨_, Host.Outcome.next.inj (h.symm.trans (execLoadIndAddr_of_le outside))⟩

/-- R85: a store can change the memory only. -/
theorem execStoreAddr_next (h : execStoreAddr o s = .next t) :
    (∃ m, t = { s with mem := m }) ∨ ∃ e, t = s.raiseMemoryFault e := by
  refine (commit_next h).imp_left fun ok => ?_
  rcases Nat.lt_or_ge (absolute o).toNat s.config.length with inside | outside
  · exact ⟨_, (Except.ok.inj ((memWrite_of_lt s.ac inside).symm.trans ok)).symm⟩
  · cases (memWrite_of_le s.ac outside).symm.trans ok

/-- R111: PUSH can change the memory and SP only. -/
theorem execPush_next (h : execPush s = .next t) :
    (∃ m, t = { s with mem := m, sp := pushAddress s }) ∨ ∃ e, t = s.raiseMemoryFault e := by
  refine (commit_next h).imp_left fun ok => ?_
  rcases Nat.lt_or_ge (pushAddress s).toNat s.config.length with inside | outside
  · exact ⟨_, (Except.ok.inj ((pushWord_of_lt s.ac inside).symm.trans ok)).symm⟩
  · cases (pushWord_of_le s.ac outside).symm.trans ok

/-- R105: CALL can change the memory, SP and PC only. -/
theorem execCall_next (h : execCall o s = .next t) :
    (∃ m, t = { s with mem := m, sp := pushAddress s, pc := jumpTarget o }) ∨ ∃ e, t = s.raiseMemoryFault e := by
  rcases Nat.lt_or_ge (pushAddress s).toNat s.config.length with inside | outside
  · simp only [execCall, pushWord_of_lt s.pc inside] at h
    exact .inl ⟨_, (Host.Outcome.next.inj h).symm⟩
  · simp only [execCall, pushWord_of_le s.pc outside] at h
    exact .inr ⟨_, (Host.Outcome.next.inj h).symm⟩

/-- R106: RET can change PC and SP only. -/
theorem execRet_next (h : execRet s = .next t) :
    (∃ w, t = (s.setSp (add32 s.sp 1#32)).setPc w) ∨ ∃ e, t = s.raiseMemoryFault e := by
  rcases Nat.lt_or_ge s.sp.toNat s.config.length with inside | outside
  · simp only [execRet, popWord_of_lt inside] at h
    exact .inl ⟨_, (Host.Outcome.next.inj h).symm⟩
  · simp only [execRet, popWord_of_le outside] at h
    exact .inr ⟨_, (Host.Outcome.next.inj h).symm⟩

/-- R112: POP can change AC and SP only. -/
theorem execPop_next (h : execPop s = .next t) :
    (∃ w, t = (s.setSp (add32 s.sp 1#32)).setAc w) ∨ ∃ e, t = s.raiseMemoryFault e := by
  rcases Nat.lt_or_ge s.sp.toNat s.config.length with inside | outside
  · simp only [execPop, popWord_of_lt inside] at h
    exact .inl ⟨_, (Host.Outcome.next.inj h).symm⟩
  · simp only [execPop, popWord_of_le outside] at h
    exact .inr ⟨_, (Host.Outcome.next.inj h).symm⟩

/-- R107: IRET can change PC and SP only. -/
theorem execIret_next (h : execIret s = .next t) :
    (∃ p q, t = (s.setPc p).setSp q) ∨ ∃ e, t = s.raiseMemoryFault e := by
  refine (commit_next h).imp_left fun ok => ?_
  rcases Nat.lt_or_ge s.config.iretPcAddr.toNat s.config.length with pcIn | pcOut
  · rcases Nat.lt_or_ge s.config.iretSpAddr.toNat s.config.length with spIn | spOut
    · exact ⟨_, _, (Except.ok.inj ((restoreFromSlots_of_lt pcIn spIn).symm.trans ok)).symm⟩
    · cases (restoreFromSlots_of_le_sp pcIn spOut).symm.trans ok
  · cases (restoreFromSlots_of_le_pc pcOut).symm.trans ok

/-- R87: PUT_PORT can change the output only. -/
theorem execPutPort_next (h : execPutPort o s = .next t) : (∃ e, t = s.emit e) ∨ t = s := by
  unfold execPutPort at h
  split at h
  · exact .inl ⟨_, (Host.Outcome.next.inj h).symm⟩
  · exact .inr (Host.Outcome.next.inj h).symm

/-- R103: JUMP_IF_EQUAL can change PC only. -/
theorem execJumpIfEqual_next (h : execJumpIfEqual o s = .next t) : t = s.setPc (jumpTarget o) ∨ t = s := by
  unfold execJumpIfEqual at h
  split at h
  · exact .inl (Host.Outcome.next.inj h).symm
  · exact .inr (Host.Outcome.next.inj h).symm

/-- R104: JUMP_IF_NOT_EQUAL can change PC only. -/
theorem execJumpIfNotEqual_next (h : execJumpIfNotEqual o s = .next t) : t = s.setPc (jumpTarget o) ∨ t = s := by
  unfold execJumpIfNotEqual at h
  split at h
  · exact .inr (Host.Outcome.next.inj h).symm
  · exact .inl (Host.Outcome.next.inj h).symm

end Sys2Proof.Machine
end

