-- ==== Sys2Proof/Proofs/RegisterTransfer.lean ====
section
/-! PROOFS. The register transfers of section 44_register_transfer.md, and the frame of Y over all instructions. -/

namespace Sys2Proof.Machine

/-- R97: the one instruction in the table of Y's writers is COPY_TO_Y. -/
theorem mayWriteY_eq_true_iff {i : Instr} : mayWriteY i = true ↔ ∃ o, i = .copyToY o := by
  cases i <;> simp [mayWriteY]

/-- R18: an instruction that the table does not list as a writer of Y leaves Y as it was. -/
theorem exec_keeps_y {i : Instr} {s t : State} (hi : mayWriteY i = false) (h : exec i s = .next t) : t.y = s.y := by
  cases i with
  | copyToY _ => cases hi
  | loadAddr _ | loadIdxX _ | loadIdxY _ | loadSpX _ => obtain ⟨_, rfl⟩ | ⟨_, rfl⟩ := commit_loadAc_next h <;> rfl
  | loadIndAddr _ => obtain ⟨_, rfl⟩ | ⟨_, rfl⟩ := execLoadIndAddr_next h <;> rfl
  | storeAddr _ => obtain ⟨_, rfl⟩ | ⟨_, rfl⟩ := execStoreAddr_next h <;> rfl
  | push _ => obtain ⟨_, rfl⟩ | ⟨_, rfl⟩ := execPush_next h <;> rfl
  | call _ => obtain ⟨_, rfl⟩ | ⟨_, rfl⟩ := execCall_next h <;> rfl
  | ret _ => obtain ⟨_, rfl⟩ | ⟨_, rfl⟩ := execRet_next h <;> rfl
  | pop _ => obtain ⟨_, rfl⟩ | ⟨_, rfl⟩ := execPop_next h <;> rfl
  | iret _ => obtain ⟨_, _, rfl⟩ | ⟨_, rfl⟩ := execIret_next h <;> rfl
  | putPort _ => obtain ⟨_, rfl⟩ | rfl := execPutPort_next h <;> rfl
  | jumpIfEqual _ => obtain rfl | rfl := execJumpIfEqual_next h <;> rfl
  | jumpIfNotEqual _ => obtain rfl | rfl := execJumpIfNotEqual_next h <;> rfl
  | _ => cases h; rfl

/-- R97: COPY_TO_Y is the only instruction that writes Y. -/
theorem exists_eq_copyToY_of_y_ne {i : Instr} {s t : State} (h : exec i s = .next t) (changed : t.y ≠ s.y) :
    ∃ o, i = .copyToY o := by
  rw [← mayWriteY_eq_true_iff, ← Bool.not_eq_false]
  exact fun hi => changed (exec_keeps_y hi h)

/-- R7, D7: a legal LENGTH is at most 2^31. -/
theorem length_le_of_config_wf {c : Config} (hc : c.wf = true) : c.length ≤ 2 ^ 31 :=
  of_decide_eq_true (Bool.and_eq_true_iff.mp hc).right

/-- R36: right after reset SP holds LENGTH, which as a legal parameter (R7) fits 32 bits. -/
theorem resetWith_sp_toNat {c : Config} (hc : c.wf = true) : (State.resetWith c).sp.toNat = c.length := by
  have hle := length_le_of_config_wf hc
  exact (BitVec.toNat_ofNat _ _).trans (Nat.mod_eq_of_lt (by omega))

/-- Settles O23: both copies are one update of the state, and Y's frame leaves COPY_TO_Y as its only writer. -/
theorem copyToIndexRegisters : Obligations.CopyToIndexRegisters :=
  ⟨fun _ hop => decode_of_opcode_eq hop, fun _ hop => decode_of_opcode_eq hop, fun _ _ => ⟨rfl, rfl⟩,
    fun _ _ _ => exists_eq_copyToY_of_y_ne⟩

/-- Settles O24: each copy is one update of AC. -/
theorem copyFromIndexRegisters : Obligations.CopyFromIndexRegisters :=
  ⟨fun _ hop => decode_of_opcode_eq hop, fun _ hop => decode_of_opcode_eq hop, fun _ _ => ⟨rfl, rfl⟩⟩

/-- Settles O26: the copy is one update of AC, and what it copies right after reset is LENGTH. -/
theorem copyFromSpReadsStackPointer : Obligations.CopyFromSpReadsStackPointer :=
  ⟨fun _ hop => decode_of_opcode_eq hop, fun _ _ => rfl, fun _ _ hc => ⟨_, rfl, resetWith_sp_toNat hc⟩,
    fun _ => ⟨_, rfl, rfl⟩⟩

end Sys2Proof.Machine
end

