-- ==== Sys2Proof/Proofs/ControlTransfer.lean ====
section
/-! PROOFS. Jumps, RET and END of section 45_control_transfer.md: where the PC goes, when the run then stops, and the
jump to itself that never stops. -/

namespace Sys2Proof.Machine

variable {s : State} {o : Operand}

/-- R59, R101: extending the operand by zeros to a jump target does not change its value. -/
@[simp] theorem jumpTarget_toNat (o : Operand) : (jumpTarget o).toNat = o.toNat := absolute_toNat o

/-- R77: a halted run has no successor. -/
theorem step_of_halted (halted : s.run = .halted) : step s = .fault .runHalted := by
  simp only [step, halted]

/-- R76: a running state whose PC names no cell halts at its next fetch. -/
theorem step_of_running_of_le (running : s.run = .running) (outside : s.config.length ≤ s.pc.toNat) :
    step s = .next s.halt := by
  simp only [step, running, fetchRead_of_le outside]

/-- R76: the halt of a fetch outside memory is no MemoryFault. -/
theorem step_halts_of_pc_outside (running : s.run = .running) (outside : s.config.length ≤ s.pc.toNat) :
    ∃ u, step s = .next u ∧ u.run = .halted ∧ u.fault = s.fault :=
  ⟨s.halt, step_of_running_of_le running outside, rfl, rfl⟩

/-! ### The conditional jumps -/

/-- R24: the zero test is of the value of all 32 bits. -/
theorem acIsZero_eq_true_iff : acIsZero s = true ↔ s.ac.toNat = 0 := by
  rw [acIsZero, beq_iff_eq, BitVec.toNat_eq, BitVec.toNat_zero]

/-- R103, R104: with AC 0 exactly JUMP_IF_EQUAL is taken. -/
theorem execConditionalJumps_of_ac_zero (zero : s.ac.toNat = 0) :
    execJumpIfEqual o s = .next (s.setPc (jumpTarget o)) ∧ execJumpIfNotEqual o s = .next s :=
  have test := acIsZero_eq_true_iff.mpr zero
  ⟨if_pos test, if_pos test⟩

/-- R103, R104: with any other AC exactly JUMP_IF_NOT_EQUAL is taken. -/
theorem execConditionalJumps_of_ac_ne_zero (nonzero : s.ac.toNat ≠ 0) :
    execJumpIfEqual o s = .next s ∧ execJumpIfNotEqual o s = .next (s.setPc (jumpTarget o)) :=
  have test := mt acIsZero_eq_true_iff.mp nonzero
  ⟨if_neg test, if_neg test⟩

/-- Settles O28, by the two outcomes of the zero test. -/
theorem conditionalJumpsTestAccumulator : Obligations.ConditionalJumpsTestAccumulator :=
  ⟨fun _ hop => decode_of_opcode_eq hop, fun _ hop => decode_of_opcode_eq hop,
    fun _ _ => ⟨execConditionalJumps_of_ac_zero, execConditionalJumps_of_ac_ne_zero⟩⟩

/-! ### RET and END -/

/-- R106: RET with SP at a cell of memory takes that cell's word as PC and pops it. -/
theorem execRet_of_lt (inside : s.sp.toNat < s.config.length) :
    execRet s = .next { s with pc := s.mem.read s.sp.toNat, sp := s.sp + 1#32 } := by
  simp only [execRet, popWord_of_lt inside, commit_ok, State.setPc, State.setSp, add32]

/-- R106: RET with SP outside memory takes the read's MemoryFault. -/
theorem execRet_of_le (outside : s.config.length ≤ s.sp.toNat) :
    execRet s = .next { s with run := .faulted, fault := some { addr := s.sp, kind := .read } } := by
  simp only [execRet, popWord_of_le outside, commit_error]

/-- Settles O30, by the two cases of SP; the popped word is the PC that the next fetch checks. -/
theorem retPopsReturnAddress : Obligations.RetPopsReturnAddress := by
  refine ⟨fun _ hop => decode_of_opcode_eq hop, fun _ _ => ⟨fun inside => ?_, execRet_of_le⟩⟩
  exact ⟨_, execRet_of_lt inside, rfl, fun running outside => step_halts_of_pc_outside running outside⟩

/-- Settles O34: END is the one update of the run state, and the halted state has no successor. -/
theorem endHaltsTheRun : Obligations.EndHaltsTheRun :=
  ⟨fun _ hop => decode_of_opcode_eq hop, fun _ s => ⟨s.halt, rfl, rfl, step_of_halted rfl⟩⟩

/-! ### JUMP, and the jump to itself -/

/-- A run of one step more is the step and then the run. -/
theorem run_succ_of_step {M : Host.Core} {s t : M.State} (n : Nat) (h : M.step s = .next t) :
    M.run (n + 1) s = M.run n t := by
  rw [Host.Core.run, h]

/-- A property with which every step answers a next state that has it again, holds after any number of steps. -/
theorem run_keeps {M : Host.Core} {P : M.State → Prop} (keep : ∀ s, P s → ∃ t, M.step s = .next t ∧ P t)
    (n : Nat) {s : M.State} (hs : P s) : ∃ t, M.run n s = .next t ∧ P t := by
  induction n generalizing s with
  | zero => exact ⟨s, rfl, hs⟩
  | succ n ih =>
    obtain ⟨t, hstep, ht⟩ := keep s hs
    rw [run_succ_of_step n hstep]
    exact ih ht

/-- R61, R63: the word numbered `a * 256 + 20` is JUMP to the address `a`. -/
theorem decode_eq_jump {w a : Word} (hw : w.toNat = a.toNat * 256 + 20) :
    ∃ o, decode w = .jump o ∧ jumpTarget o = a := by
  have hop : opcodeOf w = 20#8 := BitVec.eq_of_toNat_eq (by rw [opcodeOf_toNat, BitVec.toNat_ofNat]; omega)
  have htarget : jumpTarget (operandOf w) = a :=
    BitVec.eq_of_toNat_eq (by rw [jumpTarget_toNat, operandOf_toNat]; omega)
  exact ⟨operandOf w, decode_of_opcode_eq hop, htarget⟩

/-- R102: the run goes on at the address `a` of memory, whose cell holds `JUMP a`. -/
structure AtSelfJump (a : Word) (s : State) : Prop where
  running : s.run = .running
  pc_eq : s.pc = a
  inside : a.toNat < s.config.length
  word : (s.mem.read a.toNat).toNat = a.toNat * 256 + 20

/-- R102: the jump to itself undoes the fetch's increment of PC, and touches no cell. -/
theorem step_keeps_atSelfJump {a : Word} (s : State) (h : AtSelfJump a s) :
    ∃ t, step s = .next t ∧ AtSelfJump a t := by
  obtain ⟨running, rfl, inside, word⟩ := h
  obtain ⟨o, hdecode, htarget⟩ := decode_eq_jump word
  refine ⟨(s.fetched (s.mem.read s.pc.toNat)).setPc (jumpTarget o), ?_, running, htarget, inside, word⟩
  rw [step_of_running_of_lt running inside, hdecode, exec, execJump]

/-- Settles O27: JUMP is one update of PC, which the next fetch checks; at a jump to itself the step keeps the place. -/
theorem jumpSetsPcAndMayLoopForever : Obligations.JumpSetsPcAndMayLoopForever := by
  refine ⟨fun _ hop => decode_of_opcode_eq hop, fun o s => ?_, fun s n running inside word => ?_⟩
  · exact ⟨s.setPc (jumpTarget o), rfl, jumpTarget_toNat o, rfl, fun running outside =>
      step_halts_of_pc_outside running (length_le_absolute outside)⟩
  · obtain ⟨t, hrun, ht⟩ := run_keeps (M := core) step_keeps_atSelfJump n ⟨running, rfl, inside, word⟩
    exact ⟨t, hrun, ht.running, ht.pc_eq⟩

end Sys2Proof.Machine
end

