-- ==== Sys2Proof/Proofs/Stack.lean ====
section
/-! PROOFS. POP of section 46_stack.md: its one access, the read of the cell at SP, succeeds or takes the MemoryFault. -/

namespace Sys2Proof.Machine

variable {s : State}

/-- R112: POP with SP at a cell of memory takes that cell's word as AC and pops it. -/
theorem execPop_of_lt (inside : s.sp.toNat < s.config.length) :
    execPop s = .next { s with ac := s.mem.read s.sp.toNat, sp := s.sp + 1#32 } := by
  simp only [execPop, popWord_of_lt inside, commit_ok, State.setAc, State.setSp, add32]

/-- R112, R113: POP with SP outside memory takes the read's MemoryFault. -/
theorem execPop_of_le (outside : s.config.length ≤ s.sp.toNat) :
    execPop s = .next { s with run := .faulted, fault := some { addr := s.sp, kind := .read } } := by
  simp only [execPop, popWord_of_le outside, commit_error]

/-- Settles O38, by the two cases of SP: below `LENGTH` it names a cell, from `LENGTH` on none. -/
theorem popLoadsTopOfStack : Obligations.PopLoadsTopOfStack :=
  ⟨fun _ hop => decode_of_opcode_eq hop, fun _ _ => ⟨execPop_of_lt, execPop_of_le⟩⟩

end Sys2Proof.Machine
end

