-- ==== Sys2Proof/Proofs/ResetAndLoad.lean ====
section
/-! PROOFS. Memory at reset and after the host's load, of section 70_reset_and_hazards.md, and what a cell that holds 0
runs as. -/

namespace Sys2Proof.Machine

/-- R133: copying an image in changes no cell below the image's first or past its last. -/
theorem Memory.read_copyIn_outside (ws : List Word) {m : Memory} {a b : Nat} (h : b < a ∨ a + ws.length ≤ b) :
    (m.copyIn a ws).read b = m.read b := by
  induction ws generalizing m a with
  | nil => rfl
  | cons w rest ih =>
    rw [List.length_cons] at h
    calc ((m.write a w).copyIn (a + 1) rest).read b
      _ = (m.write a w).read b := ih (by omega)
      _ = m.read b := Memory.read_write_other m w (by omega)

/-- R133: in Idle an image of at most `LENGTH` words is loaded from address 0, and memory alone changes. -/
theorem hostLoad_of_idle_of_le {ws : List Word} {s : State} (idle : s.run = .idle)
    (fits : ws.length ≤ s.config.length) : hostLoad ws s = .next { s with mem := s.mem.copyIn 0 ws } := by
  simp [hostLoad, idle, Nat.not_lt.mpr fits]

/-- R66, R132: a running state whose PC names a cell that holds 0 steps over it, for 0 is no assigned opcode. -/
theorem step_of_zero_cell {s : State} (running : s.run = .running) (inside : s.pc.toNat < s.config.length)
    (zero : s.mem.read s.pc.toNat = 0#32) : step s = .next { s with ir := 0#32, pc := s.pc + 1#32 } := by
  have unassigned : decode 0#32 = .nopUnassigned 0#8 0#24 := by decide
  rw [step_of_running_of_lt running inside, zero, unassigned, fetched_eq_update_ir_pc]
  rfl

/-- Settles O51: the load leaves a cell past the image as reset left it, which is 0, and then the step over a zero cell
and LOAD_ADDR of one apply. -/
theorem uncoveredCellsStayZero : Obligations.UncoveredCellsStayZero := by
  intro c ws a fits
  refine ⟨State.resetWith_mem_read c a, _, hostLoad_of_idle_of_le rfl fits, fun past => ?_⟩
  have zero : ((State.resetWith c).mem.copyIn 0 ws).read a = 0#32 :=
    (Memory.read_copyIn_outside ws (.inr (by omega))).trans (State.resetWith_mem_read c a)
  refine ⟨zero, fun s running hmem hpc inside => ?_, fun o s hmem ho inside => ?_⟩
  · subst hpc
    exact step_of_zero_cell running inside (hmem ▸ zero)
  · subst ho
    rw [(loadAddrReadsAbsoluteAddress.2 o s).1 inside, hmem, zero]

end Sys2Proof.Machine
end

