-- ==== Sys2Proof/Proofs/Codec.lean ====
section
/-! PROOFS. The codec of 30_encoding.md: the opcode map against the fields of a word, and the round trip. -/

namespace Sys2Proof

/-! ### The opcode map -/

/-- R63, R66: the opcode map answers a well-formed instruction that has the two fields it was given. -/
theorem instrOfFields_fields (op : Opcode) (o : Operand) :
    (instrOfFields op o).opcode = op ∧ (instrOfFields op o).operand = o ∧ (instrOfFields op o).wf = true := by
  unfold instrOfFields
  split
  case h_31 =>
    refine ⟨rfl, rfl, ?_⟩
    simp_all [Instr.wf, isAssigned, assignedOpcodes]
  all_goals exact ⟨(BitVec.eq_of_toNat_eq ‹_›).symm, rfl, rfl⟩

/-- R66: an opcode with no row in the map gives the tagged no-op. -/
theorem instrOfFields_of_unassigned {op : Opcode} (h : isAssigned op = false) (o : Operand) :
    instrOfFields op o = .nopUnassigned op o := by
  unfold instrOfFields
  split
  case h_31 => rfl
  all_goals simp_all [isAssigned, assignedOpcodes]

/-- R66: the no-op is an instruction of an opcode that has no row. -/
theorem nopUnassigned_wf_iff {op : Opcode} {o : Operand} :
    (Instr.nopUnassigned op o).wf = true ↔ isAssigned op = false := by
  simp [Instr.wf]

/-- R66: the tagged no-op is the answer for the opcodes that have no row in the map, and for those only. -/
theorem instrOfFields_eq_nopUnassigned_iff {op : Opcode} {o : Operand} :
    instrOfFields op o = .nopUnassigned op o ↔ isAssigned op = false := by
  refine ⟨fun h => ?_, fun h => instrOfFields_of_unassigned h o⟩
  obtain ⟨-, -, hwf⟩ := instrOfFields_fields op o
  rw [h] at hwf
  exact nopUnassigned_wf_iff.mp hwf

/-- R63: a well-formed instruction is the answer for its own two fields. -/
theorem instrOfFields_opcode_operand {i : Instr} (h : i.wf = true) : instrOfFields i.opcode i.operand = i := by
  cases i with
  | nopUnassigned op o => exact instrOfFields_of_unassigned (nopUnassigned_wf_iff.mp h) o
  | _ => rfl

/-- R66: the opcode values without a row, counted off. -/
theorem isAssigned_eq_false_iff {op : Opcode} :
    isAssigned op = false ↔
      op.toNat = 0 ∨ op.toNat = 29 ∨ (31 ≤ op.toNat ∧ op.toNat ≤ 49) ∨ 51 ≤ op.toNat := by
  simp only [isAssigned, assignedOpcodes, List.contains_eq_mem, decide_eq_false_iff_not, List.mem_cons,
    List.not_mem_nil, or_false]
  omega

/-! ### The round trip -/

/-- R58: a decoded instruction has the opcode field of its word. -/
theorem opcode_decode (w : Word) : (decode w).opcode = opcodeOf w := (instrOfFields_fields _ _).1

/-- R58: a decoded instruction has the operand field of its word. -/
theorem operand_decode (w : Word) : (decode w).operand = operandOf w := (instrOfFields_fields _ _).2.1

/-- R66: every word decodes to a well-formed instruction. -/
theorem decode_wf (w : Word) : (decode w).wf = true := (instrOfFields_fields _ _).2.2

/-- Settles O2: the word of an instruction has its two fields, and the opcode map gives the instruction for them. -/
theorem decodeInvertsEncode : Obligations.DecodeInvertsEncode := by
  intro i hwf
  rw [decode, encode, opcodeOf_encodeFields, operandOf_encodeFields, instrOfFields_opcode_operand hwf]

/-- Settles O3: decoding keeps both fields of the word, and the two fields are the whole word. -/
theorem encodeInvertsDecode : Obligations.EncodeInvertsDecode := by
  intro w
  refine ⟨decode_wf w, ?_⟩
  rw [encode, opcode_decode, operand_decode, encodeFields_fields]

/-- Settles O4: the opcode map answers the no-op for the values without a row, and the low byte is the opcode. -/
theorem unassignedOpcodesDecodeToNoOp : Obligations.UnassignedOpcodesDecodeToNoOp := by
  intro w
  rw [← opcodeOf_toNat, ← isAssigned_eq_false_iff]
  exact instrOfFields_eq_nopUnassigned_iff

/-- Settles O1: each word is decoded by its row of the opcode map. -/
theorem vectorWordsDecode : Obligations.VectorWordsDecode := by
  unfold Obligations.VectorWordsDecode
  decide

/-- Settles O5: fields that fit make a number below 2^32, which the word then holds. -/
theorem encodeNumbersRejectsWideFields : Obligations.EncodeNumbersRejectsWideFields := by
  intro op o
  refine ⟨fun hop ho => ⟨BitVec.ofNat 32 (o * 256 + op), if_pos (by omega), ?_⟩, fun hwide => if_neg (by omega)⟩
  rw [BitVec.toNat_ofNat, Nat.mod_eq_of_lt (by omega)]

/-! ### Ignored operands -/

namespace Machine

/-- R65: where the opcode's instruction ignores its operand, its arm of the execute phase does not get it. -/
theorem exec_instrOfFields_of_ignored {op : Opcode} {a : Operand} (b : Operand) (s : State)
    (h : (instrOfFields op a).operandUse = .ignored) :
    exec (instrOfFields op b) s = exec (instrOfFields op a) s := by
  revert h
  unfold instrOfFields
  split <;> intro h <;> cases h <;> rfl

/-- Settles O6: two words with the same opcode field differ in the operand of one row of the opcode map. -/
theorem ignoredOperandChangesNothing : Obligations.IgnoredOperandChangesNothing := by
  intro u w s hop hignored
  rw [decode_of_opcode_eq hop.symm]
  rw [decode_of_opcode_eq rfl] at hignored ⊢
  exact exec_instrOfFields_of_ignored _ s hignored

end Machine
end Sys2Proof
end

