-- ==== Sys2Proof/Proofs/Effect.lean ====
section
/-! PROOFS. What every instruction answers, said once for all of them: the MemoryFault of its failing access (R116), or
its effect. The frames over all instructions are read off these lemmas. -/

namespace Sys2Proof.Machine

variable {s : State}

/-- The state an execute phase ends in when no access fails (R79 to R112). -/
def effect (i : Instr) (s : State) : State :=
  match i with
  | .loadValue o => s.setAc (immediate o)
  | .loadAddr o => s.setAc (s.mem.read (absolute o).toNat)
  | .loadIndAddr o => s.setAc (s.mem.read (s.mem.read o.toNat).toNat)
  | .loadIdxX o => s.setAc (s.mem.read (indexedByX o s).toNat)
  | .loadIdxY o => s.setAc (s.mem.read (indexedByY o s).toNat)
  | .loadSpX _ => s.setAc (s.mem.read (stackIndexedByX s).toNat)
  | .storeAddr o => { s with mem := s.mem.write (absolute o).toNat s.ac }
  | .rand _ => loadDraw (drawRand s) s
  | .putPort o => { s with output := s.output ++ (portOf o).toList.map ({ port := ·, data := s.ac }) }
  | .addx _ => s.setAc (add32 s.ac s.x)
  | .addy _ => s.setAc (add32 s.ac s.y)
  | .subx _ => s.setAc (sub32 s.ac s.x)
  | .suby _ => s.setAc (sub32 s.ac s.y)
  | .copyToX _ => s.setX s.ac
  | .copyFromX _ => s.setAc s.x
  | .copyToY _ => s.setY s.ac
  | .copyFromY _ => s.setAc s.y
  | .copyToSp _ => s.setSp s.ac
  | .copyFromSp _ => s.setAc s.sp
  | .jump o => s.setPc (jumpTarget o)
  | .jumpIfEqual o => s.setPc (if s.ac = 0#32 then jumpTarget o else s.pc)
  | .jumpIfNotEqual o => s.setPc (if s.ac ≠ 0#32 then jumpTarget o else s.pc)
  | .call o => { s with mem := s.mem.write (pushAddress s).toNat s.pc, sp := pushAddress s, pc := jumpTarget o }
  | .ret _ => { s with pc := s.mem.read s.sp.toNat, sp := add32 s.sp 1#32 }
  | .incx _ => s.setX (add32 s.x 1#32)
  | .decx _ => s.setX (sub32 s.x 1#32)
  | .push _ => { s with mem := s.mem.write (pushAddress s).toNat s.ac, sp := pushAddress s }
  | .pop _ => { s with ac := s.mem.read s.sp.toNat, sp := add32 s.sp 1#32 }
  | .iret _ => { s with pc := s.mem.read s.config.iretPcAddr.toNat, sp := s.mem.read s.config.iretSpAddr.toNat }
  | .endRun _ => s.halt
  | .nopUnassigned _ _ => s

/-- R118: the MemoryFault of the access that failed, or the state `t` when none did. -/
def orFault (s : State) (fails : Option FaultRecord) (t : State) : State :=
  fails.elim t s.raiseMemoryFault

/-! ### One access -/

theorem readFails_of_lt {a : Word} (h : a.toNat < s.config.length) : readFails s a = none :=
  if_neg (Nat.not_le.mpr h)

theorem readFails_of_le {a : Word} (h : s.config.length ≤ a.toNat) :
    readFails s a = some { addr := a, kind := .read } := if_pos h

theorem writeFails_of_lt {a : Word} (h : a.toNat < s.config.length) : writeFails s a = none :=
  if_neg (Nat.not_le.mpr h)

theorem writeFails_of_le {a : Word} (h : s.config.length ≤ a.toNat) :
    writeFails s a = some { addr := a, kind := .write } := if_pos h

theorem writeFails_eq_none_iff {a : Word} : writeFails s a = none ↔ a.toNat < s.config.length := by
  simp [writeFails]

/-- R116: an execute phase whose one access is a read is told by the two cases of the read's address. -/
theorem eq_orFault_of_read {a : Word} {x : Result} {t : State} (inside : a.toNat < s.config.length → x = .next t)
    (outside : s.config.length ≤ a.toNat →
      x = .next { s with run := .faulted, fault := some { addr := a, kind := .read } }) :
    x = .next (orFault s (readFails s a) t) := by
  rcases Nat.lt_or_ge a.toNat s.config.length with h | h
  · rw [inside h, readFails_of_lt h]; rfl
  · rw [outside h, readFails_of_le h]; rfl

/-- R116: an execute phase whose one access is a write is told by the two cases of the write's address. -/
theorem eq_orFault_of_write {a : Word} {x : Result} {t : State} (inside : a.toNat < s.config.length → x = .next t)
    (outside : s.config.length ≤ a.toNat →
      x = .next { s with run := .faulted, fault := some { addr := a, kind := .write } }) :
    x = .next (orFault s (writeFails s a) t) := by
  rcases Nat.lt_or_ge a.toNat s.config.length with h | h
  · rw [inside h, writeFails_of_lt h]; rfl
  · rw [outside h, writeFails_of_le h]; rfl

/-! ### The instructions with an access -/

/-- R85: STORE_ADDR to a cell of memory writes that cell. -/
theorem execStoreAddr_of_lt {o : Operand} (inside : (absolute o).toNat < s.config.length) :
    execStoreAddr o s = .next { s with mem := s.mem.write (absolute o).toNat s.ac } := by
  rw [execStoreAddr, memWrite_of_lt s.ac inside, commit_ok]

/-- R111: PUSH with a cell of memory below SP writes AC there and moves SP. -/
theorem execPush_of_lt (inside : (pushAddress s).toNat < s.config.length) :
    execPush s = .next { s with mem := s.mem.write (pushAddress s).toNat s.ac, sp := pushAddress s } := by
  rw [execPush, pushWord_of_lt s.ac inside, commit_ok]

/-- R111, R113: PUSH with no cell below SP takes the write's MemoryFault. -/
theorem execPush_of_le (outside : s.config.length ≤ (pushAddress s).toNat) :
    execPush s = .next { s with run := .faulted, fault := some { addr := pushAddress s, kind := .write } } := by
  rw [execPush, pushWord_of_le s.ac outside, commit_error]

/-- R105: CALL with a cell of memory below SP writes PC there, moves SP and jumps. -/
theorem execCall_of_lt {o : Operand} (inside : (pushAddress s).toNat < s.config.length) :
    execCall o s = .next
      { s with mem := s.mem.write (pushAddress s).toNat s.pc, sp := pushAddress s, pc := jumpTarget o } := by
  simp only [execCall, pushWord_of_lt s.pc inside, commit_ok, State.setPc]

/-- R105, R113: CALL with no cell below SP takes the write's MemoryFault. -/
theorem execCall_of_le {o : Operand} (outside : s.config.length ≤ (pushAddress s).toNat) :
    execCall o s = .next { s with run := .faulted, fault := some { addr := pushAddress s, kind := .write } } := by
  simp only [execCall, pushWord_of_le s.pc outside, commit_error]

/-- R107: with both slots in memory IRET takes PC from the one and SP from the other. -/
theorem execIret_of_lt (pcIn : s.config.iretPcAddr.toNat < s.config.length)
    (spIn : s.config.iretSpAddr.toNat < s.config.length) :
    execIret s = .next
      { s with pc := s.mem.read s.config.iretPcAddr.toNat, sp := s.mem.read s.config.iretSpAddr.toNat } := by
  rw [execIret, restoreFromSlots_of_lt pcIn spIn, commit_ok, State.setPc, State.setSp]

/-- R107: with PC's slot outside memory IRET takes that read's MemoryFault. -/
theorem execIret_of_le_pc (pcOut : s.config.length ≤ s.config.iretPcAddr.toNat) :
    execIret s = .next
      { s with run := .faulted, fault := some { addr := s.config.iretPcAddr, kind := .read } } := by
  rw [execIret, restoreFromSlots_of_le_pc pcOut, commit_error]

/-- R107: with only SP's slot outside memory IRET takes the second read's MemoryFault. -/
theorem execIret_of_le_sp (pcIn : s.config.iretPcAddr.toNat < s.config.length)
    (spOut : s.config.length ≤ s.config.iretSpAddr.toNat) :
    execIret s = .next
      { s with run := .faulted, fault := some { addr := s.config.iretSpAddr, kind := .read } } := by
  rw [execIret, restoreFromSlots_of_le_sp pcIn spOut, commit_error]

/-- R107, R116: IRET reads PC's slot and then, if that succeeds, SP's. -/
theorem execIret_eq (o : Operand) (s : State) :
    execIret s = .next (orFault s
      ((readFails s s.config.iretPcAddr).or (readFails s s.config.iretSpAddr)) (effect (.iret o) s)) := by
  rcases Nat.lt_or_ge s.config.iretPcAddr.toNat s.config.length with pcIn | pcOut
  · rw [readFails_of_lt pcIn, Option.none_or]
    exact eq_orFault_of_read (execIret_of_lt pcIn) (execIret_of_le_sp pcIn)
  · rw [execIret_of_le_pc pcOut, readFails_of_le pcOut]
    rfl

/-- R81, R116: LOAD_IND_ADDR reads the pointer and then, if that succeeds, the word it points at. -/
theorem execLoadIndAddr_eq (o : Operand) (s : State) :
    execLoadIndAddr o s = .next (orFault s
      ((readFails s (absolute o)).or (readFails s (s.mem.read o.toNat))) (effect (.loadIndAddr o) s)) := by
  rcases Nat.lt_or_ge o.toNat s.config.length with inside | outside
  · rw [execLoadIndAddr_of_lt inside, readFails_of_lt (absolute_lt_length inside), Option.none_or]
    exact eq_orFault_of_read commit_loadAc_of_lt commit_loadAc_of_le
  · rw [execLoadIndAddr_of_le outside, readFails_of_le (length_le_absolute outside)]
    rfl

/-! ### The instructions with a test -/

/-- R87: an operand that is no port adds no event. -/
theorem execPutPort_eq (o : Operand) (s : State) : execPutPort o s = .next (effect (.putPort o) s) := by
  simp only [execPutPort, effect]
  cases portOf o with
  | some p => rfl
  | none => rw [Option.toList_none, List.map_nil, List.append_nil]

/-- R103: not taken, the jump leaves PC. -/
theorem execJumpIfEqual_eq (o : Operand) (s : State) :
    execJumpIfEqual o s = .next (effect (.jumpIfEqual o) s) := by
  simp only [execJumpIfEqual, effect, acIsZero, beq_iff_eq]
  split <;> rfl

/-- R104: not taken, the jump leaves PC. -/
theorem execJumpIfNotEqual_eq (o : Operand) (s : State) :
    execJumpIfNotEqual o s = .next (effect (.jumpIfNotEqual o) s) := by
  simp only [execJumpIfNotEqual, effect, acIsZero, beq_iff_eq, ne_eq, ite_not]
  split <;> rfl

/-! ### Every instruction -/

/-- R116, R118: every instruction takes the MemoryFault of its failing access, or has its effect. -/
theorem exec_eq (i : Instr) (s : State) : exec i s = .next (orFault s (failingAccess i s) (effect i s)) := by
  cases i with
  | loadAddr _ | loadIdxX _ | loadIdxY _ | loadSpX _ => exact eq_orFault_of_read commit_loadAc_of_lt commit_loadAc_of_le
  | loadIndAddr o => exact execLoadIndAddr_eq o s
  | storeAddr o =>
    refine eq_orFault_of_write execStoreAddr_of_lt fun outside => execStoreAddr_of_le ?_
    rwa [← absolute_toNat]
  | push _ => exact eq_orFault_of_write execPush_of_lt execPush_of_le
  | call _ => exact eq_orFault_of_write execCall_of_lt execCall_of_le
  | ret _ => exact eq_orFault_of_read execRet_of_lt execRet_of_le
  | pop _ => exact eq_orFault_of_read execPop_of_lt execPop_of_le
  | iret o => exact execIret_eq o s
  | putPort o => exact execPutPort_eq o s
  | jumpIfEqual o => exact execJumpIfEqual_eq o s
  | jumpIfNotEqual o => exact execJumpIfNotEqual_eq o s
  | _ => rfl

theorem exec_of_fails {i : Instr} {r : FaultRecord} (h : failingAccess i s = some r) :
    exec i s = .next (s.raiseMemoryFault r) := by
  rw [exec_eq, h]; rfl

theorem exec_of_completes {i : Instr} (h : failingAccess i s = none) : exec i s = .next (effect i s) := by
  rw [exec_eq, h]; rfl

/-- A next state of the execute phase is one of the two that `exec_eq` names. -/
theorem exec_next_cases {i : Instr} {t : State} (h : exec i s = .next t) :
    (∃ r, failingAccess i s = some r ∧ t = s.raiseMemoryFault r) ∨ (failingAccess i s = none ∧ t = effect i s) := by
  cases hf : failingAccess i s with
  | some r => exact .inl ⟨r, rfl, Host.Outcome.next.inj (h.symm.trans (exec_of_fails hf))⟩
  | none => exact .inr ⟨rfl, Host.Outcome.next.inj (h.symm.trans (exec_of_completes hf))⟩

end Sys2Proof.Machine
end

