-- ==== Sys2Proof/Proofs/Frames.lean ====
section
/-! PROOFS. The statements over all instructions: the MemoryFault table, the next-PC table, the frames of registers,
memory and output, and what no instruction reads. -/

namespace Sys2Proof.Machine

variable {i : Instr} {s t : State}

/-! ### What the effect of an instruction leaves -/

theorem effect_config : (effect i s).config = s.config := by cases i <;> rfl

theorem effect_v : (effect i s).v = s.v := by cases i <;> rfl

theorem effect_ir : (effect i s).ir = s.ir := by cases i <;> rfl

theorem effect_fault : (effect i s).fault = s.fault := by cases i <;> rfl

/-- R25, R108: END alone changes the run state. -/
theorem effect_run (h : ∀ o, i ≠ .endRun o) : (effect i s).run = s.run := by
  cases i with
  | endRun o => exact absurd rfl (h o)
  | _ => rfl

/-- R54: RAND alone draws. -/
theorem effect_draws (h : ∀ o, i ≠ .rand o) : (effect i s).draws = s.draws := by
  cases i with
  | rand o => exact absurd rfl (h o)
  | _ => rfl

/-- R52: PUT_PORT alone adds to the output. -/
theorem effect_output (h : ∀ o, i ≠ .putPort o) : (effect i s).output = s.output := by
  cases i with
  | putPort o => exact absurd rfl (h o)
  | _ => rfl

/-- R16: the listed instructions alone write AC. -/
theorem effect_ac (h : mayWriteAc i = false) : (effect i s).ac = s.ac := by cases i <;> cases h <;> rfl

/-- R17: the listed instructions alone write X. -/
theorem effect_x (h : mayWriteX i = false) : (effect i s).x = s.x := by cases i <;> cases h <;> rfl

/-- R20: the listed instructions alone write SP. -/
theorem effect_sp (h : mayWriteSp i = false) : (effect i s).sp = s.sp := by cases i <;> cases h <;> rfl

/-- R75: the next-PC table. -/
theorem effect_pc : (effect i s).pc = nextPc i s := by cases i <;> rfl

/-- R21, R75: the listed instructions alone write PC. -/
theorem nextPc_eq_pc (h : mayWritePc i = false) : nextPc i s = s.pc := by cases i <;> cases h <;> rfl

/-- R85, R105, R111: the one cell an instruction stores to is new, and it is a cell of memory when no access fails. -/
theorem effect_mem (h : failingAccess i s = none) :
    (effect i s).mem = s.mem ∨
      ∃ a w, storedAddress i s = some a ∧ a < s.config.length ∧ (effect i s).mem = s.mem.write a w := by
  cases i with
  | storeAddr _ | call _ | push _ => exact .inr ⟨_, _, rfl, writeFails_eq_none_iff.mp h, rfl⟩
  | _ => exact .inl rfl

/-- R52, R53: an effect adds at most one event after the earlier ones. -/
theorem effect_output_append : ∃ es, (effect i s).output = s.output ++ es ∧ es.length ≤ 1 := by
  cases i with
  | putPort o => exact ⟨_, rfl, by rw [List.length_map]; cases portOf o <;> simp⟩
  | _ => exact ⟨[], (List.append_nil _).symm, Nat.zero_le _⟩

/-! ### The frames -/

/-- What a MemoryFault and the effect leave, the instruction leaves. -/
theorem exec_frame {α : Type} (p : State → α) (hfault : ∀ r, p (s.raiseMemoryFault r) = p s)
    (heffect : p (effect i s) = p s) (h : exec i s = .next t) : p t = p s := by
  obtain ⟨r, -, rfl⟩ | ⟨-, rfl⟩ := exec_next_cases h
  · exact hfault r
  · exact heffect

theorem exec_config (h : exec i s = .next t) : t.config = s.config :=
  exec_frame State.config (fun _ => rfl) effect_config h

theorem exec_v (h : exec i s = .next t) : t.v = s.v := exec_frame State.v (fun _ => rfl) effect_v h

theorem exec_ir (h : exec i s = .next t) : t.ir = s.ir := exec_frame State.ir (fun _ => rfl) effect_ir h

theorem exec_output (hi : ∀ o, i ≠ .putPort o) (h : exec i s = .next t) : t.output = s.output :=
  exec_frame State.output (fun _ => rfl) (effect_output hi) h

/-- An instruction adds at most one event after the earlier ones. -/
theorem exec_output_append (h : exec i s = .next t) : ∃ es, t.output = s.output ++ es ∧ es.length ≤ 1 := by
  obtain ⟨r, -, rfl⟩ | ⟨-, rfl⟩ := exec_next_cases h
  · exact ⟨[], (List.append_nil _).symm, Nat.zero_le _⟩
  · exact effect_output_append

/-- Memory is as before, or one of its cells, that of `storedAddress`, is written. -/
theorem exec_mem (h : exec i s = .next t) :
    t.mem = s.mem ∨ ∃ a w, storedAddress i s = some a ∧ a < s.config.length ∧ t.mem = s.mem.write a w := by
  obtain ⟨r, -, rfl⟩ | ⟨hnone, rfl⟩ := exec_next_cases h
  · exact .inl rfl
  · exact effect_mem hnone

/-- Settles O41: the two cases of `exec_eq`, with what an effect leaves of run state and fault record. -/
theorem memoryFaultsAreExactlyTheTable : Obligations.MemoryFaultsAreExactlyTheTable := by
  refine fun i s => ⟨fun r fails => exec_of_fails fails, fun none_fails => ?_⟩
  refine ⟨effect i s, exec_of_completes none_fails, effect_fault, ?_, effect_run⟩
  rintro ⟨o, rfl⟩
  rfl

/-- Settles O36: where no access fails the next state is the effect, and its PC is the table's. -/
theorem nextPcFollowsTable : Obligations.NextPcFollowsTable :=
  fun i s none_fails => ⟨effect i s, exec_of_completes none_fails, effect_pc⟩

/-- Settles O42, register by register. -/
theorem registersChangeOnlyUnderTheirWriters : Obligations.RegistersChangeOnlyUnderTheirWriters := by
  intro i s t h
  exact ⟨fun hi => exec_frame State.ac (fun _ => rfl) (effect_ac hi) h,
    fun hi => exec_frame State.x (fun _ => rfl) (effect_x hi) h,
    fun hi => exec_keeps_y hi h,
    fun hi => exec_frame State.sp (fun _ => rfl) (effect_sp hi) h,
    fun hi => exec_frame State.pc (fun _ => rfl) (effect_pc.trans (nextPc_eq_pc hi)) h,
    exec_v h, exec_ir h, exec_config h⟩

/-- Settles O43: a cell at another address than the one written reads as before. -/
theorem memoryChangesOnlyAtStoredAddress : Obligations.MemoryChangesOnlyAtStoredAddress := by
  intro i s t h a hne
  obtain hmem | ⟨b, w, hb, -, hmem⟩ := exec_mem h
  · rw [hmem]
  · have hab : a ≠ b := fun hab => hne (hab ▸ hb)
    rw [hmem, Memory.read_write_other s.mem w hab]

/-! ### PUT_PORT (R87) -/

theorem zext32_eq_iff {o : Operand} {w : Word} : zext32 o = w ↔ o.toNat = w.toNat := by
  rw [BitVec.toNat_eq, ← absolute_toNat o, absolute]

/-- R87: the port is told by the value of all 24 bits of the operand. -/
theorem portOf_eq (o : Operand) :
    portOf o = if o.toNat = 1 then some .decimal else if o.toNat = 2 then some .character else none := by
  simp only [portOf, zext32_eq_iff, BitVec.toNat_ofNat, Nat.reducePow, Nat.reduceMod]

/-- Settles O17, by the three answers of the port selection. -/
theorem putPortEmitsOneEvent : Obligations.PutPortEmitsOneEvent := by
  intro o s
  refine ⟨fun one => ?_, fun two => ?_, fun ne_one ne_two => ?_⟩
  · rw [exec, execPutPort, portOf_eq, if_pos one]; rfl
  · rw [exec, execPutPort, portOf_eq, if_neg (by omega), if_pos two]; rfl
  · rw [exec, execPutPort, portOf_eq, if_neg ne_one, if_neg ne_two]

/-- Settles O18: another instruction than PUT_PORT leaves the output, and what PUT_PORT does is O17. -/
theorem outputOnlyGrowsByPutPort : Obligations.OutputOnlyGrowsByPutPort := by
  intro i s t h
  constructor
  · rintro ⟨o, rfl, one | two⟩
    · cases h.symm.trans ((putPortEmitsOneEvent o s).1 one)
      exact ⟨_, rfl⟩
    · cases h.symm.trans ((putPortEmitsOneEvent o s).2.1 two)
      exact ⟨_, rfl⟩
  · intro other
    by_cases hi : ∃ o, i = .putPort o
    · obtain ⟨o, rfl⟩ := hi
      obtain ⟨ne_one, ne_two⟩ := other o rfl
      cases h.symm.trans ((putPortEmitsOneEvent o s).2.2 ne_one ne_two)
      rfl
    · exact exec_output (not_exists.mp hi) h

/-! ### What no instruction reads -/

/-- An update of the state that the fault table and the effect do not read can be made after the instruction as well
as before it. -/
theorem exec_comm (f : State → State) (hfails : failingAccess i (f s) = failingAccess i s)
    (hfault : ∀ r, (f s).raiseMemoryFault r = f (s.raiseMemoryFault r)) (heffect : effect i (f s) = f (effect i s))
    (h : exec i s = .next t) : exec i (f s) = .next (f t) := by
  obtain ⟨r, hr, rfl⟩ | ⟨hnone, rfl⟩ := exec_next_cases h
  · rw [exec_of_fails (hfails.trans hr), hfault]
  · rw [exec_of_completes (hfails.trans hnone), heffect]

/-- The state with another count of draws (R54). -/
def State.withDraws (n : Nat) (s : State) : State := { s with draws := n }

theorem effect_withDraws (n : Nat) (h : ∀ o, i ≠ .rand o) :
    effect i (s.withDraws n) = (effect i s).withDraws n := by
  cases i with
  | rand o => exact absurd rfl (h o)
  | _ => rfl

theorem failingAccess_withDraws (n : Nat) : failingAccess i (s.withDraws n) = failingAccess i s := by
  cases i <;> rfl

/-- Settles O44: an effect but RAND's leaves the count of draws and does not read it. -/
theorem onlyRandDependsOnTheRandomSource : Obligations.OnlyRandDependsOnTheRandomSource := by
  intro i s t n hi h
  refine ⟨exec_frame State.draws (fun _ => rfl) (effect_draws hi) h, ?_⟩
  exact exec_comm (State.withDraws n) (failingAccess_withDraws n) (fun _ => rfl) (effect_withDraws n hi) h

/-- The state with the value `w` in V (R19) and with the events `es` in the place of the first `n` (R53). -/
def State.withPast (w : Word) (es : List OutEvent) (n : Nat) (s : State) : State :=
  { s with v := w, output := es ++ s.output.drop n }

theorem failingAccess_withPast (w : Word) (es : List OutEvent) (n : Nat) :
    failingAccess i (s.withPast w es n) = failingAccess i s := by
  cases i <;> rfl

theorem effect_withPast (w : Word) (es : List OutEvent) :
    effect i (s.withPast w es s.output.length) = (effect i s).withPast w es s.output.length := by
  cases i with
  | putPort o => simp [effect, State.withPast]
  | _ => rfl

/-- Settles O45: neither the fault table nor an effect reads V or the earlier output. -/
theorem reservedRegisterAndOutputAreNotRead : Obligations.ReservedRegisterAndOutputAreNotRead := by
  intro i s t w es h
  have before : { s with v := w, output := es } = s.withPast w es s.output.length := by
    rw [State.withPast, List.drop_length, List.append_nil]
  rw [before]
  exact exec_comm (State.withPast w es s.output.length) (failingAccess_withPast w es _) (fun _ => rfl)
    (effect_withPast w es) h

end Sys2Proof.Machine
end

