-- ==== Sys2Proof/Proofs/RunInvariant.lean ====
section
/-! PROOFS. The invariant of every run: reset meets it, every step and host action keeps it; and what it says of a
halted run. -/

namespace Sys2Proof.Machine

variable {i : Instr} {s t : State} {w : Word}

/-! ### The next states of a step -/

/-- R71, R76, R135: the three ways a step answers a next state. -/
theorem step_next_cases (h : step s = .next t) :
    (s.run = .idle ∧ t = { s with run := .running }) ∨
    (s.run = .running ∧ s.config.length ≤ s.pc.toNat ∧ t = s.halt) ∨
    (s.run = .running ∧ s.pc.toNat < s.config.length ∧
      exec (decode (s.mem.read s.pc.toNat)) (s.fetched (s.mem.read s.pc.toNat)) = .next t) := by
  obtain ⟨idle, hs⟩ | ⟨-, hs⟩ | ⟨-, hs⟩ | ⟨running, outside, hs⟩ | ⟨running, inside, hs⟩ := step_cases s
  · exact .inl ⟨idle, Host.Outcome.next.inj (h.symm.trans hs)⟩
  · cases h.symm.trans hs
  · cases h.symm.trans hs
  · exact .inr (.inl ⟨running, outside, Host.Outcome.next.inj (h.symm.trans hs)⟩)
  · exact .inr (.inr ⟨running, inside, hs.symm.trans h⟩)

/-- Settles O58: an instruction leaves V and the parameters and adds at most one event; the other steps change the run
state only. -/
theorem reservedRegisterAndParametersAreConstant : Obligations.ReservedRegisterAndParametersAreConstant := by
  intro s t h
  obtain ⟨-, rfl⟩ | ⟨-, -, rfl⟩ | ⟨-, -, hexec⟩ := step_next_cases h
  · exact ⟨rfl, rfl, [], (List.append_nil _).symm, Nat.zero_le _⟩
  · exact ⟨rfl, rfl, [], (List.append_nil _).symm, Nat.zero_le _⟩
  · exact ⟨exec_v (s := s.fetched _) hexec, exec_config (s := s.fetched _) hexec,
      exec_output_append (s := s.fetched _) hexec⟩

/-! ### END -/

/-- R63: the words of END are those with the opcode field 50. -/
theorem decode_eq_endRun_iff : (∃ o, decode w = .endRun o) ↔ opcodeOf w = 50#8 := by
  constructor
  · rintro ⟨o, h⟩
    rw [← opcode_decode, h]
    rfl
  · exact fun h => ⟨_, decode_of_opcode_eq h⟩

/-- R25, R108: an instruction halts the run exactly when it is END. -/
theorem exec_run_eq_halted_iff (running : s.run = .running) (h : exec i s = .next t) :
    t.run = .halted ↔ ∃ o, i = .endRun o := by
  constructor
  · intro halted
    by_contra hi
    obtain ⟨r, -, rfl⟩ | ⟨-, rfl⟩ := exec_next_cases h
    · cases halted
    · rw [effect_run (not_exists.mp hi), running] at halted
      cases halted
  · rintro ⟨o, rfl⟩
    cases h
    rfl

/-- R114, R115: what a halted run tells of its cause. -/
theorem failureOf_of_halted (halted : s.run = .halted) :
    failureOf s = if opcodeOf s.ir = 50#8 then .none else .fetchFault := by
  simp [failureOf, stoppedByEnd, halted]

/-- Settles O54: a fetched instruction that halts is END, with its word in IR; a fetch that fails leaves IR, which the
invariant says holds no END word. -/
theorem haltCauseIsToldByIr : Obligations.HaltCauseIsToldByIr := by
  rintro s t ⟨-, -, -, -, no_end⟩ running h halted
  rw [failureOf_of_halted halted]
  constructor
  · intro inside
    rw [step_of_running_of_lt running inside] at h
    have op_eq : opcodeOf t.ir = 50#8 := by
      rw [exec_ir h, State.fetched_ir, ← decode_eq_endRun_iff]
      exact (exec_run_eq_halted_iff (s := s.fetched _) running h).mp halted
    exact ⟨op_eq, if_pos op_eq⟩
  · intro outside
    cases h.symm.trans (step_of_running_of_le running outside)
    have op_ne : opcodeOf s.ir ≠ 50#8 := no_end (.inr running)
    exact ⟨op_ne, if_neg op_ne⟩

/-! ### The invariant -/

/-- Settles O55: reset's memory lists no cell, its run state is Idle and its IR is 0. -/
theorem resetMeetsRunInvariant : Obligations.ResetMeetsRunInvariant := by
  have reset_inv (c : Config) (hc : c.wf = true) : (State.resetWith c).Inv :=
    ⟨hc, State.resetWith_mem_wf c, rfl, by simp [State.resetWith], fun _ => by simp only [State.resetWith]; decide⟩
  exact ⟨reset_inv, reset_inv Config.default (by decide)⟩

/-- R38: an instruction keeps the memory canonical and its cells below LENGTH. -/
theorem exec_keeps_mem (h : exec i s = .next t) (hwf : s.mem.wf = true)
    (hwithin : s.mem.within s.config.length = true) :
    t.mem.wf = true ∧ t.mem.within s.config.length = true := by
  obtain hmem | ⟨a, w, -, inside, hmem⟩ := exec_mem h
  · rw [hmem]
    exact ⟨hwf, hwithin⟩
  · rw [hmem]
    exact ⟨Memory.write_wf a w hwf, Memory.write_within w hwithin inside⟩

/-- R26, R117: an instruction leaves a fault record exactly where it leaves Faulted. -/
theorem exec_fault_isSome_iff (running : s.run = .running) (hfault : s.fault = none) (h : exec i s = .next t) :
    t.fault.isSome = true ↔ t.run = .faulted := by
  obtain ⟨r, -, rfl⟩ | ⟨-, rfl⟩ := exec_next_cases h
  · simp
  · rw [effect_fault, hfault]
    by_cases hi : ∃ o, i = .endRun o
    · obtain ⟨o, rfl⟩ := hi
      simp [effect]
    · simp [effect_run (not_exists.mp hi), running]

/-- A running state that meets the invariant has no fault record. -/
theorem fault_eq_none_of_running (hfault : s.fault.isSome = true ↔ s.run = .faulted) (running : s.run = .running) :
    s.fault = none := by
  rw [← Option.not_isSome_iff_eq_none, hfault, running]
  exact RunState.noConfusion

/-- The invariant is kept by a fetch and the instruction of the word fetched. -/
theorem exec_fetched_inv (hs : s.Inv) (running : s.run = .running)
    (h : exec (decode w) (s.fetched w) = .next t) : t.Inv := by
  obtain ⟨hconfig, hwf, hwithin, hfault, -⟩ := hs
  obtain ⟨hwf', hwithin'⟩ := exec_keeps_mem h hwf hwithin
  have config_eq : t.config = s.config := exec_config (s := s.fetched w) h
  refine ⟨config_eq ▸ hconfig, hwf', config_eq ▸ hwithin', ?_, fun goes_on hend => ?_⟩
  · exact exec_fault_isSome_iff (s := s.fetched w) running (fault_eq_none_of_running hfault running) h
  · have halted : t.run = .halted := by
      rw [exec_run_eq_halted_iff (s := s.fetched w) running h, decode_eq_endRun_iff]
      rwa [exec_ir h, State.fetched_ir] at hend
    simp [halted] at goes_on

/-- `run()` keeps the invariant: IR is not touched. -/
theorem run_inv (hs : s.Inv) (idle : s.run = .idle) : State.Inv { s with run := .running } := by
  obtain ⟨hconfig, hwf, hwithin, hfault, no_end⟩ := hs
  exact ⟨hconfig, hwf, hwithin, by simp [hfault, idle], fun _ => no_end (.inl idle)⟩

/-- The halt of a failed fetch keeps the invariant: the run does not go on. -/
theorem halt_inv (hs : s.Inv) (running : s.run = .running) : s.halt.Inv := by
  obtain ⟨hconfig, hwf, hwithin, hfault, -⟩ := hs
  exact ⟨hconfig, hwf, hwithin, by simp [hfault, running], by simp⟩

/-- Settles O56: each of the three ways of a step keeps the invariant. -/
theorem stepKeepsRunInvariant : Obligations.StepKeepsRunInvariant := by
  intro s t hs h
  obtain ⟨idle, rfl⟩ | ⟨running, -, rfl⟩ | ⟨running, -, hexec⟩ := step_next_cases h
  · exact run_inv hs idle
  · exact halt_inv hs running
  · exact exec_fetched_inv hs running hexec

/-! ### The host -/

theorem hostRun_of_idle (idle : s.run = .idle) : hostRun s = { s with run := .running } := by
  simp only [hostRun, idle]

theorem hostRun_of_ne_idle (h : s.run ≠ .idle) : hostRun s = s := by
  cases hr : s.run <;> simp_all [hostRun]

theorem hostLoad_of_ne_idle (ws : List Word) (h : s.run ≠ .idle) : hostLoad ws s = .refused .loadOutsideIdle :=
  if_pos h

theorem hostLoad_of_idle_of_lt {ws : List Word} (idle : s.run = .idle) (long : s.config.length < ws.length) :
    hostLoad ws s = .refused .imageTooLong := by
  simp [hostLoad, idle, long]

/-- R133: a load that is not refused is one in Idle of an image that fits. -/
theorem hostLoad_next {ws : List Word} (h : hostLoad ws s = .next t) :
    s.run = .idle ∧ ws.length ≤ s.config.length ∧ t = { s with mem := s.mem.copyIn 0 ws } := by
  by_cases idle : s.run = .idle
  · rcases Nat.lt_or_ge s.config.length ws.length with long | fits
    · cases h.symm.trans (hostLoad_of_idle_of_lt idle long)
    · exact ⟨idle, fits, Host.Outcome.next.inj (h.symm.trans (hostLoad_of_idle_of_le idle fits))⟩
  · cases h.symm.trans (hostLoad_of_ne_idle ws idle)

/-- Settles O57: `run()` changes the run state only, and a load the memory only, within LENGTH. -/
theorem hostActionsKeepRunInvariant : Obligations.HostActionsKeepRunInvariant := by
  intro s hs
  constructor
  · by_cases idle : s.run = .idle
    · exact (hostRun_of_idle idle).symm ▸ run_inv hs idle
    · exact (hostRun_of_ne_idle idle).symm ▸ hs
  · intro ws t h
    obtain ⟨-, fits, rfl⟩ := hostLoad_next h
    obtain ⟨hconfig, hwf, hwithin, hfault, no_end⟩ := hs
    have hwithin' := Memory.copyIn_within ws hwithin ((Nat.zero_add _).trans_le fits)
    exact ⟨hconfig, Memory.copyIn_wf ws 0 hwf, hwithin', hfault, no_end⟩

end Sys2Proof.Machine
end

