-- ==== Sys2Proof/Proofs/Arithmetic.lean ====
section
/-! PROOFS. The arithmetic of 43_arithmetic.md modulo 2^32, and the effective addresses of 20_memory.md with the loads
that read at them. -/

namespace Sys2Proof.Machine

/-! ### Sums and differences (R11, R88) -/

theorem add32_toNat (a b : Word) : (add32 a b).toNat = (a.toNat + b.toNat) % 2 ^ 32 := BitVec.toNat_add a b

/-- R88: the difference is that of the integers, modulo 2^32. -/
theorem sub32_toNat (a b : Word) : ((sub32 a b).toNat : Int) = ((a.toNat : Int) - b.toNat) % 2 ^ 32 := by
  rw [sub32, BitVec.toNat_sub]
  omega

/-- Settles O7: LOAD_VALUE is one update of AC, by the operand extended with zeros. -/
theorem loadValueZeroExtends : Obligations.LoadValueZeroExtends :=
  fun o s => ⟨s.setAc (immediate o), rfl, absolute_toNat o, rfl⟩

/-- Settles O19: each is one update of AC, by the sum. -/
theorem addWrapsModulo32 : Obligations.AddWrapsModulo32 :=
  fun _ s => ⟨⟨s.setAc (add32 s.ac s.x), rfl, add32_toNat s.ac s.x, rfl⟩,
    ⟨s.setAc (add32 s.ac s.y), rfl, add32_toNat s.ac s.y, rfl⟩⟩

/-- Settles O20: each is one update of AC, by the difference. -/
theorem subtractWrapsModulo32 : Obligations.SubtractWrapsModulo32 :=
  fun _ s => ⟨⟨s.setAc (sub32 s.ac s.x), rfl, sub32_toNat s.ac s.x, rfl⟩,
    ⟨s.setAc (sub32 s.ac s.y), rfl, sub32_toNat s.ac s.y, rfl⟩⟩

/-- Settles O21: each is one update of X, by the sum or the difference with 1. -/
theorem incrementDecrementWrap : Obligations.IncrementDecrementWrap := by
  refine fun _ s => ⟨⟨s.setX (add32 s.x 1#32), rfl, ?_, rfl⟩, ⟨s.setX (sub32 s.x 1#32), rfl, sub32_toNat s.x 1#32, rfl⟩⟩
  rw [State.setX_x, add32_toNat, BitVec.toNat_one (by decide)]
  omega

/-- Settles O16: a draw is below 101, so the word holds it as it is. -/
theorem randLoadsAtMostHundred : Obligations.RandLoadsAtMostHundred := by
  refine fun _ s => ⟨loadDraw (drawRand s) s, rfl, ?_, rfl⟩
  have hdraw := (Config.freeDraw s.draws).isLt
  change (BitVec.ofNat 32 (Config.freeDraw s.draws).val).toNat ≤ 100
  rw [BitVec.toNat_ofNat]
  omega

/-- R88: a difference is 0 exactly when the words are equal. -/
theorem sub32_toNat_eq_zero_iff {a b : Word} : (sub32 a b).toNat = 0 ↔ a = b := by
  rw [BitVec.toNat_eq, sub32, BitVec.toNat_sub]
  omega

/-- Settles O22: the jump tests the difference that SUBX leaves in AC. -/
theorem subxThenJumpIfEqualTestsEquality : Obligations.SubxThenJumpIfEqualTestsEquality := by
  intro o p s
  by_cases equal : s.ac = s.x
  · exact ⟨_, _, rfl, (execConditionalJumps_of_ac_zero (sub32_toNat_eq_zero_iff.mpr equal)).1,
      fun _ => jumpTarget_toNat p, absurd equal⟩
  · exact ⟨_, _, rfl, (execConditionalJumps_of_ac_ne_zero (mt sub32_toNat_eq_zero_iff.mp equal)).1,
      fun h => absurd h equal, fun _ => rfl⟩

/-! ### Effective addresses (R45) -/

/-- Settles O12: adding the signed index to a base below 2^31 leaves the range from 0 to 2^32 only downward, where the
sum modulo 2^32 is at or above 2^31. -/
theorem negativeIndexReachesBelowBase : Obligations.NegativeIndexReachesBelowBase := by
  intro base index n hbase hn
  have hindex := index.isLt
  rw [effectiveAddress, add32_toNat, signed32, BitVec.toInt_eq_toNat_cond]
  split <;> omega

/-- R45: a word with the value of the sum modulo 2^32 is the effective address. -/
theorem eq_effectiveAddress {a base index : Word} (h : a.toNat = (base.toNat + index.toNat) % 2 ^ 32) :
    a = effectiveAddress base index :=
  BitVec.eq_of_toNat_eq (h.trans (add32_toNat base index).symm)

/-- Settles O10: both loads are a load from the effective address of the operand and the index. -/
theorem loadIndexedReadsModularSum : Obligations.LoadIndexedReadsModularSum := by
  intro o s a
  constructor
  · intro ha
    obtain rfl : a = indexedByX o s := eq_effectiveAddress (ha.trans (by rw [← absolute_toNat o, absolute]))
    exact ⟨commit_loadAc_of_lt, commit_loadAc_of_le⟩
  · intro ha
    obtain rfl : a = indexedByY o s := eq_effectiveAddress (ha.trans (by rw [← absolute_toNat o, absolute]))
    exact ⟨commit_loadAc_of_lt, commit_loadAc_of_le⟩

/-- Settles O11: LOAD_SP_X is a load from the effective address of SP and X. -/
theorem loadSpXReadsInsideStack : Obligations.LoadSpXReadsInsideStack := by
  intro o s a ha
  obtain rfl : a = stackIndexedByX s := eq_effectiveAddress ha
  exact ⟨commit_loadAc_of_lt, commit_loadAc_of_le⟩

end Sys2Proof.Machine
end

