-- ==== Sys2Proof/Proofs/StackBounds.lean ====
section
/-! PROOFS. The stack discipline of 46_stack.md and 45_control_transfer.md: PUSH, CALL and IRET, and the bounds of every
access. -/

namespace Sys2Proof.Machine

variable {s : State}

/-! ### The cell a push writes (R105, R111) -/

theorem pushAddress_toNat_of_pos (h : 1 ≤ s.sp.toNat) : (pushAddress s).toNat = s.sp.toNat - 1 := by
  rw [pushAddress, sub32, BitVec.toNat_sub_of_le (by simpa [BitVec.le_def] using h)]
  rfl

theorem pushAddress_lt_length (hpos : 1 ≤ s.sp.toNat) (hle : s.sp.toNat ≤ s.config.length) :
    (pushAddress s).toNat < s.config.length := by
  rw [pushAddress_toNat_of_pos hpos]
  omega

theorem pushAddress_of_sp_zero (h : s.sp = 0#32) : pushAddress s = 0xFFFFFFFF#32 := by
  rw [pushAddress, h]
  decide

/-- D14: below SP 0 the cell's address wraps to the last word, and above LENGTH it stays at or above LENGTH. -/
theorem length_le_pushAddress (hc : s.config.wf = true) (h : s.sp.toNat = 0 ∨ s.config.length < s.sp.toNat) :
    s.config.length ≤ (pushAddress s).toNat := by
  rcases h with zero | above
  · have hle := length_le_of_config_wf hc
    rw [pushAddress_of_sp_zero (BitVec.eq_of_toNat_eq zero), BitVec.toNat_ofNat]
    omega
  · rw [pushAddress_toNat_of_pos (by omega)]
    omega

/-- R110: a pop moves SP back to where it was before the push. -/
theorem add32_pushAddress (s : State) : add32 (pushAddress s) 1#32 = s.sp := BitVec.sub_add_cancel s.sp 1#32

/-- Settles O37, by the bounds of the cell below SP. -/
theorem pushStoresAccumulator : Obligations.PushStoresAccumulator := by
  refine fun o s hwf => ⟨fun hpos hle => ?_, fun hc hbad => execPush_of_le (length_le_pushAddress hc hbad)⟩
  exact ⟨_, execPush_of_lt (pushAddress_lt_length hpos hle), Memory.read_write_same _ _ hwf,
    fun _ => Memory.read_write_other _ _, rfl⟩

/-- Settles O29, by the bounds of the cell below SP. -/
theorem callPushesReturnAddress : Obligations.CallPushesReturnAddress := by
  refine fun o s hwf => ⟨fun hpos hle => ?_, fun hc hbad => execCall_of_le (length_le_pushAddress hc hbad)⟩
  exact ⟨_, execCall_of_lt (pushAddress_lt_length hpos hle), Memory.read_write_same _ _ hwf,
    fun _ => Memory.read_write_other _ _, rfl⟩

/-- Settles O39: the POP reads the cell the PUSH wrote, and moves SP back. -/
theorem pushThenPopRestores : Obligations.PushThenPopRestores := by
  intro o p w s hwf hpos hle
  have inside := pushAddress_lt_length hpos hle
  refine ⟨_, _, execPush_of_lt inside, execPop_of_lt inside, ?_⟩
  simp only [Memory.read_write_same _ _ hwf]
  rw [← add32, add32_pushAddress]

/-- Settles O31: the RET reads the cell the CALL wrote, and moves SP back. -/
theorem callThenRetReturns : Obligations.CallThenRetReturns := by
  intro o p s hwf hpos hle
  have inside := pushAddress_lt_length hpos hle
  refine ⟨_, _, execCall_of_lt inside, execRet_of_lt inside, ?_⟩
  simp only [Memory.read_write_same _ _ hwf]
  rw [← add32, add32_pushAddress]

/-- Settles O25: COPY_TO_SP is one update of SP, and each later access is checked against LENGTH. -/
theorem copyToSpIsUnchecked : Obligations.CopyToSpIsUnchecked := by
  refine ⟨fun _ hop => decode_of_opcode_eq hop, fun o p s => ?_⟩
  refine ⟨s.setSp s.ac, rfl, rfl, fun hc zero => ?_, fun above => ?_⟩
  · have address : pushAddress (s.setSp s.ac) = 0xFFFFFFFF#32 := pushAddress_of_sp_zero zero
    have outside : s.config.length ≤ (pushAddress (s.setSp s.ac)).toNat :=
      length_le_pushAddress (s := s.setSp s.ac) hc (.inl (congrArg BitVec.toNat zero))
    rw [← address]
    exact ⟨execPush_of_le outside, execCall_of_le outside⟩
  · refine ⟨execPop_of_le above.le, execRet_of_le above.le, fun small => commit_loadAc_of_le ?_⟩
    have sum : (s.ac + s.x).toNat = s.ac.toNat + s.x.toNat := BitVec.toNat_add_of_lt small
    change s.config.length ≤ (s.ac + s.x).toNat
    omega

/-- R118: an instruction but END whose accesses all succeed goes on, with no new fault. -/
theorem exec_goes_on {i : Instr} (h : failingAccess i s = none) (hi : ∀ o, i ≠ .endRun o) :
    ∃ t, exec i s = .next t ∧ t.run = s.run ∧ t.fault = s.fault :=
  ⟨effect i s, exec_of_completes h, effect_run hi, effect_fault⟩

/-- Settles O40: each clause is one access of the table of MemoryFault causes, in memory or outside it. -/
theorem stackBoundsAreTheMemoryBounds : Obligations.StackBoundsAreTheMemoryBounds := by
  intro o s hc
  refine ⟨fun zero => ⟨pushAddress_of_sp_zero zero, length_le_pushAddress hc (.inl (congrArg BitVec.toNat zero))⟩,
    fun outside => ?_, fun inside => ?_, fun outside => ?_, fun inside => ?_, fun outside => ?_, fun inside => ?_,
    fun outside => ?_, fun inside outside => ?_, fun outside => ?_, fun outside => ?_⟩
  · exact ⟨execPush_of_le outside, execCall_of_le outside⟩
  · exact ⟨exec_goes_on (writeFails_of_lt inside) nofun, exec_goes_on (writeFails_of_lt inside) nofun⟩
  · exact ⟨execPop_of_le outside, execRet_of_le outside⟩
  · exact ⟨exec_goes_on (readFails_of_lt inside) nofun, exec_goes_on (readFails_of_lt inside) nofun⟩
  · exact commit_loadAc_of_le outside
  · exact exec_goes_on (readFails_of_lt inside) nofun
  · exact ⟨execStoreAddr_of_le outside, commit_loadAc_of_le (length_le_absolute outside), execLoadIndAddr_of_le outside⟩
  · exact ((loadIndAddrFollowsPointer.2 o s).2 inside _ rfl).2 outside
  · exact commit_loadAc_of_le outside
  · exact commit_loadAc_of_le outside

/-! ### IRET (R107) -/

/-- Settles O33: both slots are read, so PC and SP are written. -/
theorem iretRestoresFromSlotsInMemory : Obligations.IretRestoresFromSlotsInMemory := fun _ _ => execIret_of_lt

/-- R7, D7: a legal LENGTH is at least 1. -/
theorem one_le_length_of_config_wf {c : Config} (hc : c.wf = true) : 1 ≤ c.length :=
  of_decide_eq_true (Bool.and_eq_true_iff.mp hc).left

/-- Settles O32: the PC slot is the last cell of memory, and the SP slot is one past it. -/
theorem iretFaultsWithHardwareSlots : Obligations.IretFaultsWithHardwareSlots := by
  intro o s hc hpc hsp
  have hpos : 1 ≤ s.config.length := one_le_length_of_config_wf hc
  exact ⟨{ addr := s.config.iretSpAddr, kind := .read }, hsp, rfl, execIret_of_le_sp (by omega) hsp.ge⟩

end Sys2Proof.Machine
end

