-- ==== Sys2Proof/Proofs/MemoryExtensionality.lean ====
section
/-! PROOFS. Memory in canonical form is told by what it reads as, and an image copied in is read back. -/

namespace Sys2Proof.Machine

theorem lookupCell_cons_self (a : Nat) (w : Word) (l : List (Nat × Word)) : lookupCell ((a, w) :: l) a = w :=
  if_pos rfl

theorem lookupCell_cons_of_ne {a b : Nat} (w : Word) (l : List (Nat × Word)) (h : a ≠ b) :
    lookupCell ((b, w) :: l) a = lookupCell l a := if_neg h

/-- Below its first address a canonical list of cells reads as 0. -/
theorem lookupCell_eq_zero_of_lt_head {a b : Nat} {u : Word} {l : List (Nat × Word)}
    (h : cellsWf ((b, u) :: l) = true) (hab : a < b) : lookupCell ((b, u) :: l) a = 0#32 := by
  rw [lookupCell_cons_of_ne u l hab.ne]
  exact lookupCell_eq_zero_of_all_lt (all_above_of_lt hab (cellsWf_cons.mp h).2.1)

/-- Of two canonical lists of cells that read alike, the first address of the one is not below that of the other. -/
theorem head_not_lt_of_lookupCell_eq {a b : Nat} {w u : Word} {l k : List (Nat × Word)}
    (hl : cellsWf ((a, w) :: l) = true) (hk : cellsWf ((b, u) :: k) = true)
    (alike : ∀ c, lookupCell ((a, w) :: l) c = lookupCell ((b, u) :: k) c) : ¬ a < b := fun hab =>
  (cellsWf_cons.mp hl).1 (by
    rw [← lookupCell_cons_self a w l, alike a, lookupCell_eq_zero_of_lt_head hk hab])

/-- A canonical list with a cell does not read as 0 everywhere. -/
theorem not_lookupCell_cons_eq_zero {a : Nat} {w : Word} {l : List (Nat × Word)}
    (h : cellsWf ((a, w) :: l) = true) (zero : ∀ c, lookupCell ((a, w) :: l) c = 0#32) : False :=
  (cellsWf_cons.mp h).1 ((lookupCell_cons_self a w l).symm.trans (zero a))

/-- Canonical lists of cells that read alike are equal: their first cells are, and past them the rests read alike. -/
theorem eq_of_lookupCell_eq {l k : List (Nat × Word)} (hl : cellsWf l = true) (hk : cellsWf k = true)
    (alike : ∀ c, lookupCell l c = lookupCell k c) : l = k := by
  induction l generalizing k with
  | nil =>
    cases k with
    | nil => rfl
    | cons d k => exact (not_lookupCell_cons_eq_zero hk fun c => (alike c).symm).elim
  | cons c l ih =>
    cases k with
    | nil => exact (not_lookupCell_cons_eq_zero hl alike).elim
    | cons d k =>
      obtain ⟨a, w⟩ := c
      obtain ⟨b, u⟩ := d
      obtain rfl : a = b := by
        have hab := head_not_lt_of_lookupCell_eq hl hk alike
        have hba := head_not_lt_of_lookupCell_eq hk hl fun c => (alike c).symm
        omega
      obtain rfl : w = u := by simpa only [lookupCell_cons_self] using alike a
      obtain ⟨-, above_l, hl⟩ := cellsWf_cons.mp hl
      obtain ⟨-, above_k, hk⟩ := cellsWf_cons.mp hk
      rw [ih hl hk fun c => ?_]
      by_cases hca : c = a
      · rw [hca, lookupCell_eq_zero_of_all_lt above_l, lookupCell_eq_zero_of_all_lt above_k]
      · simpa only [lookupCell_cons_of_ne _ _ hca] using alike c

/-- Settles O59: the cells of the two memories are canonical lists that read alike. -/
theorem canonicalMemoriesReadAlikeAreEqual : Obligations.CanonicalMemoriesReadAlikeAreEqual :=
  fun _ _ hm hn alike => congrArg Memory.mk (eq_of_lookupCell_eq hm hn alike)

/-- R133: after an image is copied in from `a` upward, its `k`-th word is read at `a + k`. -/
theorem Memory.read_copyIn_inside (ws : List Word) {m : Memory} (a k : Nat) (hwf : m.wf = true) (hk : k < ws.length) :
    (m.copyIn a ws).read (a + k) = ws[k] := by
  induction ws generalizing m a k with
  | nil => cases hk
  | cons w rest ih =>
    have hwf' := Memory.write_wf a w hwf
    cases k with
    | zero =>
      calc ((m.write a w).copyIn (a + 1) rest).read a
        _ = (m.write a w).read a := Memory.read_copyIn_outside rest (.inl (Nat.lt_succ_self a))
        _ = w := Memory.read_write_same a w hwf
    | succ k =>
      have next := ih (a + 1) k hwf' (Nat.lt_of_succ_lt_succ hk)
      rwa [Nat.add_right_comm] at next

/-- Settles O50: the image that fits is copied from address 0; the two refusals are the tests of the load. -/
theorem loadCopiesImageFromZero : Obligations.LoadCopiesImageFromZero := by
  intro ws s hwf
  refine ⟨fun idle fits => ?_, hostLoad_of_idle_of_lt, hostLoad_of_ne_idle ws⟩
  refine ⟨_, hostLoad_of_idle_of_le idle fits, fun k hk => ?_, fun a past => ?_, rfl⟩
  · simpa only [Nat.zero_add] using Memory.read_copyIn_inside ws 0 k hwf hk
  · exact Memory.read_copyIn_outside ws (.inr ((Nat.zero_add _).trans_le past))

end Sys2Proof.Machine
end

