-- ==== Sys2Proof/Proofs/RunSteps.lean ====
section
/-! PROOFS. Steps of a run, of 40_fetch_decode.md and 60_exceptions.md: what each run state answers, the fetch's
increment, the walk over zero cells, and debug tracing. -/

namespace Sys2Proof.Machine

variable {s t : State}

/-! ### The run states -/

theorem step_of_idle (idle : s.run = .idle) : step s = .next (hostRun s) := by
  simp only [step, idle]

theorem step_of_faulted (faulted : s.run = .faulted) : step s = .fault (.runFaulted s.fault) := by
  simp only [step, faulted]

/-- Settles O49, run state by run state. -/
theorem runStateGatesTheStep : Obligations.RunStateGatesTheStep := by
  refine fun s => ⟨fun halted => ⟨step_of_halted halted, ?_⟩, fun faulted => ⟨step_of_faulted faulted, ?_⟩,
    fun running => ?_, fun idle => ⟨hostRun_of_idle idle, step_of_idle idle⟩⟩
  · exact hostRun_of_ne_idle (halted ▸ RunState.noConfusion)
  · exact hostRun_of_ne_idle (faulted ▸ RunState.noConfusion)
  · exact hostRun_of_ne_idle (running ▸ RunState.noConfusion)

/-- Settles O52: reset's registers are literals, and SP is LENGTH for a legal one. -/
theorem resetLeavesStatedValues : Obligations.ResetLeavesStatedValues := by
  refine ⟨?_, rfl, rfl⟩
  rintro c hc _ rfl
  exact ⟨rfl, rfl, rfl, rfl, rfl, rfl, resetWith_sp_toNat hc, rfl, rfl, rfl, rfl⟩

/-- Settles O47: the fetch fails, and its halt is one update of the run state. -/
theorem fetchOutsideMemoryHalts : Obligations.FetchOutsideMemoryHalts :=
  fun _ running outside => step_of_running_of_le running outside

/-- Settles O35: the meaning of the no-op is the state itself. -/
theorem noOpChangesNothing : Obligations.NoOpChangesNothing := fun _ _ _ => rfl

/-! ### The fetch -/

/-- R73, D7: below a legal LENGTH the increment of PC stays within 32 bits. -/
theorem pc_add_one_toNat (hc : s.config.wf = true) (inside : s.pc.toNat < s.config.length) :
    (s.pc + 1#32).toNat = s.pc.toNat + 1 := by
  have hle := length_le_of_config_wf hc
  exact BitVec.toNat_add_of_lt (by rw [BitVec.toNat_ofNat]; omega)

/-- Settles O48: the increment is that of the numbers. -/
theorem fetchIncrementNeverWraps : Obligations.FetchIncrementNeverWraps := by
  intro s w hc inside
  have increment : (s.fetched w).pc.toNat = s.pc.toNat + 1 := pc_add_one_toNat hc inside
  exact ⟨increment, increment ▸ inside⟩

/-- Settles O14: the store leaves PC and the run state, so the next step fetches the cell it wrote. -/
theorem nextFetchSeesStore : Obligations.NextFetchSeesStore := by
  intro o s hwf running inside here
  obtain ⟨t, hexec, stored, -, hframe⟩ := execStoreAddr_changes_only_cell (o := o) hwf (here ▸ inside)
  refine ⟨t, hexec, ?_⟩
  rw [here] at stored
  generalize t.mem = m at hframe stored
  subst hframe
  rw [step_of_running_of_lt (s := { s with mem := m }) running inside, stored, fetched_eq_update_ir_pc]

/-! ### The walk over zero cells -/

/-- D8, D15: with `n` cells from PC to the end of memory, all 0, the run walks over them and halts. -/
theorem run_over_zero_cells (n : Nat) {s : State} (hc : s.config.wf = true) (running : s.run = .running)
    (hn : s.pc.toNat + n = s.config.length)
    (zero : ∀ a, s.pc.toNat ≤ a → a < s.config.length → s.mem.read a = 0#32) :
    core.run (n + 1) s =
      .next { s with
        run := .halted
        pc := BitVec.ofNat 32 s.config.length
        ir := if n = 0 then s.ir else 0#32 } := by
  induction n generalizing s with
  | zero =>
    have pc_eq : BitVec.ofNat 32 s.config.length = s.pc := by
      rw [← hn, Nat.add_zero, BitVec.ofNat_toNat, BitVec.setWidth_eq]
    have halts : core.step s = .next s.halt := step_of_running_of_le running (by omega)
    rw [run_succ_of_step 0 halts, pc_eq, if_pos rfl]
    rfl
  | succ n ih =>
    have inside : s.pc.toNat < s.config.length := by omega
    have increment := pc_add_one_toNat hc inside
    have steps : core.step s = .next { s with ir := 0#32, pc := s.pc + 1#32 } :=
      step_of_zero_cell running inside (zero _ le_rfl inside)
    rw [run_succ_of_step (n + 1) steps, if_neg n.succ_ne_zero]
    refine (ih (s := { s with ir := 0#32, pc := s.pc + 1#32 }) hc running ?_ ?_).trans ?_
    · dsimp only
      omega
    · exact fun a ha => zero a (by dsimp only at ha; omega)
    · rw [ite_self]

/-- Settles O53: the cells from PC up to LENGTH are the zero cells walked over. -/
theorem runPastLastWordHaltsAtLength : Obligations.RunPastLastWordHaltsAtLength := by
  intro s hc running hle zero
  rw [run_over_zero_cells (s.config.length - s.pc.toNat) hc running (by omega) zero]
  have at_end : s.config.length - s.pc.toNat = 0 ↔ s.pc.toNat = s.config.length := by omega
  simp only [at_end]

/-! ### Debug tracing (R128) -/

/-- R7, R128: the fault table and the effect of an instruction do not read the switch of debug tracing. -/
theorem exec_withDebugTracing {i : Instr} (b : Bool) (h : exec i s = .next t) :
    exec i (s.withDebugTracing b) = .next (t.withDebugTracing b) :=
  exec_comm (·.withDebugTracing b) (by cases i <;> rfl) (fun _ => rfl) (by cases i <;> rfl) h

/-- R128, D25: a step does not read the switch of debug tracing, whatever it answers. -/
theorem step_withDebugTracing (s : State) (b : Bool) :
    (∃ t, step s = .next t ∧ step (s.withDebugTracing b) = .next (t.withDebugTracing b)) ∨
    (∃ f, step s = .fault f ∧ step (s.withDebugTracing b) = .fault f) := by
  obtain ⟨idle, hs⟩ | ⟨halted, hs⟩ | ⟨faulted, hs⟩ | ⟨running, outside, hs⟩ | ⟨running, inside, hs⟩ := step_cases s
  · have hb : hostRun (s.withDebugTracing b) = { s.withDebugTracing b with run := .running } := hostRun_of_idle idle
    exact .inl ⟨_, hs, (step_of_idle (s := s.withDebugTracing b) idle).trans (congrArg _ hb)⟩
  · exact .inr ⟨_, hs, step_of_halted (s := s.withDebugTracing b) halted⟩
  · exact .inr ⟨_, hs, step_of_faulted (s := s.withDebugTracing b) faulted⟩
  · exact .inl ⟨_, hs, step_of_running_of_le (s := s.withDebugTracing b) running outside⟩
  · rw [exec_eq] at hs
    exact .inl ⟨_, hs, (step_of_running_of_lt (s := s.withDebugTracing b) running inside).trans
      (exec_withDebugTracing (s := s.fetched _) b (exec_eq _ _))⟩

/-- R128, D25: on, the trace of a running state shows the registers after its fetch, if the fetch succeeds. -/
theorem debugTrace_on_of_running (running : s.run = .running) :
    debugTrace (s.withDebugTracing true) = (fetchRead s s.pc).map fun w => registersOf (s.fetched w) := by
  simp only [debugTrace, State.withDebugTracing_config_debugTracing, if_true, State.withDebugTracing_run, running]
  rfl

/-- R128, D25: on or off, the trace of any other state shows nothing. -/
theorem debugTrace_of_ne_running (h : s.run ≠ .running) : debugTrace s = none := by
  cases hr : s.run <;> simp_all [debugTrace]

/-- Settles O60: no step reads the switch; the trace of a running state is that of the fetch, which PC decides. -/
theorem debugTracingChangesNoStep : Obligations.DebugTracingChangesNoStep := by
  refine ⟨step_withDebugTracing, fun s => ⟨rfl, fun running inside => ?_, fun hidden => ?_⟩⟩
  · rw [debugTrace_on_of_running running, fetchRead_of_lt inside]
    rfl
  · by_cases running : s.run = .running
    · have outside : s.config.length ≤ s.pc.toNat := hidden.resolve_left (not_not.mpr running)
      rw [debugTrace_on_of_running running, fetchRead_of_le outside]
      rfl
    · exact debugTrace_of_ne_running (s := s.withDebugTracing true) running

end Sys2Proof.Machine
end
